-- ==== Sys2Proof/Word.lean ====
section
/-! DEFINITION. The word types of the beacon frame serializer: the fixed widths of 00_scope.md R8
and 30_encoding.md R90. -/

namespace Sys2Proof

/-- A host data item, a register byte, a frame byte: 8 bits (R8, R11). -/
abbrev Byte := BitVec 8

/-- A host address: 12 bits (R8, R61). -/
abbrev Addr := BitVec 12

/-- FRAME_LEN, LEN and CUR: 16 bits (R8). -/
abbrev Half := BitVec 16

/-- A host transaction word: 32 bits (R90). -/
abbrev HTWord := BitVec 32

/-- A step code, the width of SEQ: 4 bits (R8, R90). -/
abbrev StepCode := BitVec 4

end Sys2Proof
end

