-- ==== Sys2Proof/Config.lean ====
section
/-! DEFINITION. The parameters (00_scope.md R7), the frame constants (R9, R10), the places of the
register-space map (20_memory.md R62) and the free values of the model. -/

namespace Sys2Proof.Config

/-- The parameters a model of the BFS takes (R7). No transition changes them (R240). Log 1. -/
structure Params where
  /-- BUF_CAP, the size in bytes of FRAME_BUF. -/
  bufCap : Nat
  /-- CHECK_CHANNEL, whether BUILD refuses channel 0. -/
  checkChannel : Bool
  deriving DecidableEq, Repr

/-- The values "for this hardware" of R7. -/
def defaults : Params := { bufCap := 562, checkChannel := true }

/-- The legal values of R7: BUF_CAP from 52 to 3072, CHECK_CHANNEL 0 or 1. -/
abbrev Params.legal (p : Params) : Prop := 52 ≤ p.bufCap ∧ p.bufCap ≤ 3072

/-! ## Frame constants (R9, R10; PRESUMED by the spec where 93 lists them as G1 to G9: log 15) -/

/-- Capture version 0 (R9). -/
def capVersion : Byte := 0x00#8
/-- CAP_PAD (R10). -/
def capPad : Byte := 0x00#8
/-- Capture header length 9 (R9, R113). -/
def capHdrLen : Half := 9#16
/-- RADIOTAP_PRESENT_RATE, bit 2 (R10). -/
def presentRate : BitVec 32 := 0x00000004#32
/-- RATE_MASK (R10). -/
def rateMask : Byte := 0x7F#8
/-- FC_BEACON (R10, R116). -/
def fcBeacon : Half := 0x0080#16
/-- Duration 0 (R9, R117). -/
def duration : Half := 0x0000#16
/-- One byte of BROADCAST (R10, R118). -/
def broadcastByte : Byte := 0xFF#8
/-- SEQ_CTRL (R10, R119). -/
def seqCtrl : Half := 0x0000#16
/-- One byte of the timestamp 0 (R9, R120). -/
def timestampByte : Byte := 0x00#8
/-- Beacon interval 100 (R9, R120). -/
def beaconInterval : Half := 100#16
/-- Capability 0x0001 (R9, R120). -/
def capability : Half := 0x0001#16
/-- EID_SSID (R10, R123). -/
def eidSsid : Byte := 0x00#8
/-- EID_RATES (R10, R124). -/
def eidRates : Byte := 0x01#8
/-- EID_DS (R10, R125). -/
def eidDs : Byte := 0x03#8
/-- DS-parameter element length 1 (R9, R125). -/
def dsLen : Byte := 0x01#8
/-- The fixed part of the frame, 52 bytes (R130). -/
def fixedLen : Half := 52#16

/-! ## Agents and free values -/

/-- Who can take a step: the host and the engine (R20), and the transmit consumer, a host-side
agent outside the block (R228; log 13). -/
inductive Agent where
  | host
  | engine
  | consumer
  deriving DecidableEq, Repr, Inhabited

/-- FREE VALUE. The byte of the `n`-th `draw()` (R14, R140): nothing constrains it. Log 2. -/
opaque draw : Nat → BitVec 8

/-- FREE VALUE. The agent preferred at the `n`-th choice between agents that can all move
(R73, R74: any interleaving): nothing constrains it. Log 3. -/
opaque schedule : Nat → Agent

/-- FREE VALUE. How many choices in a row the engine is passed over at most, for the wait that begins at
the `n`-th choice: every wait is finite, and nothing else constrains it (R258, weak fairness). Log 16. -/
opaque patience : Nat → Nat

end Sys2Proof.Config
end

