-- ==== Sys2Proof/Syntax.lean ====
section
/-! DEFINITION. The instructions: one constructor per row of spec/opcode_table.json (R101). -/

namespace Sys2Proof

/-- The 15 rows of the opcode map (30_encoding.md R101): four host forms (HT), three command rows
(CMD) and eight engine steps (SEQ). A command row stands for the WR to CTRL that carries its code
(R95, R104). -/
inductive Instr where
  /-- WR addr, data (R141). -/
  | wr (addr : Addr) (data : Byte)
  /-- RD addr (R140). -/
  | rd (addr : Addr)
  /-- RST (R146). -/
  | rst
  /-- WAIT (R147). -/
  | wait
  /-- NOP, command code 0x00 (R151). -/
  | nop
  /-- BUILD, command code 0x01 (R152). -/
  | build
  /-- A reserved command code, 0x02 to 0xFF (R155). -/
  | reservedCmd (code : Byte)
  /-- CAPHDR, step code 1 (R170). -/
  | caphdr
  /-- RATE, step code 2 (R171). -/
  | rate
  /-- MGMTHDR, step code 3 (R172). -/
  | mgmthdr
  /-- BODY, step code 4 (R173). -/
  | body
  /-- IE_SSID, step code 5 (R174). -/
  | ieSsid
  /-- IE_RATES, step code 6 (R175). -/
  | ieRates
  /-- IE_DS, step code 7 (R176). -/
  | ieDs
  /-- FINISH, step code 8 (R177). -/
  | finish
  deriving DecidableEq, Repr

end Sys2Proof
end

