-- ==== Sys2Proof/Machine/State.lean ====
section
/-! DEFINITION. The state of the BFS (10_state.md R21), of the host that drives it and of the
transmit consumer, the reasons a step can stop, and the state after reset (R47, R240, R242). -/

namespace Sys2Proof.Machine

open Sys2Proof.Config

/-- STATUS.STATE, bits [1:0] (R35). -/
inductive BuildState where
  /-- 0: no build since reset. -/
  | idle
  /-- 1: a build is running. -/
  | busy
  /-- 2: the last build completed. -/
  | done
  /-- 3: the last command failed. -/
  | error
  deriving DecidableEq, Repr

/-- STATUS.ERR, bits [7:4] (R38, R201). The values 4 to 15 are never held. -/
inductive ErrCode where
  /-- 0: no error. -/
  | none
  /-- 1: a reserved command (R202). -/
  | badCmd
  /-- 2: BUILD with CHANNEL = 0 (R204). -/
  | badChannel
  /-- 3: the frame does not fit the buffer (R203). -/
  | overflow
  deriving DecidableEq, Repr

/-- A byte array with written marks (R42): the cells whose mark is set, by strictly rising index.
A cell that is not listed is unwritten and holds no value (log 5). -/
abbrev Memory := List Host.Cell

/-- The canonical form of a Memory: indices strictly rising. -/
abbrev Memory.wf (m : Memory) : Prop := m.Pairwise (fun c d => c.1 < d.1)

/-- One item of the host's remaining program (R103). -/
inductive HostItem where
  /-- An HT word: one transaction or WAIT (R91). -/
  | ht (w : HTWord)
  /-- The last part of RDFRAME: `RDB 0x400, L`, with L from the two RDs before it (R104; log 12). -/
  | frameBytes
  deriving DecidableEq, Repr

/-- Where the transmit consumer stands (R228 to R233; log 13). -/
inductive ConsumerPhase where
  /-- No consumer is attached. -/
  | off
  /-- It has not yet read STATUS = DONE (R228). -/
  | waiting
  /-- It has read DONE; next it reads FRAME_LEN_LO. -/
  | readLo
  /-- It has FRAME_LEN_LO; next it reads FRAME_LEN_HI. -/
  | readHi (lo : Byte)
  /-- It copies a frame of `size` bytes; `got` are the bytes read so far. -/
  | copying (size : Nat) (got : List Byte)
  /-- It holds F and calls write(F) in a loop (R229). -/
  | sending (frame : List Byte)
  /-- A write returned `count ≠ L`: the loop has stopped, and the failure it reports is the system error
  text `report` (R231). -/
  | failed (frame : List Byte) (count : Int) (report : List Char)
  deriving DecidableEq, Repr

/-- What one call of `write` gives back: an input from outside (R228, R231; log 13). -/
structure WriteAnswer where
  /-- The count it returns. -/
  count : Int
  /-- The system error text that stands when it returns. -/
  errorText : List Char
  deriving DecidableEq, Repr

/-- What the calls of `write` do that come after the listed answers (R232, R233; log 13). -/
inductive WriteRest where
  /-- The next call never returns (R233). -/
  | blocks
  /-- Every call returns the whole length (R232). -/
  | succeeds
  deriving DecidableEq, Repr

/-- The transmit consumer with its write port (R228; log 13). -/
structure Consumer where
  phase : ConsumerPhase
  /-- The answers of the next calls of `write`, oldest first: an input from outside. -/
  port : List WriteAnswer
  /-- What the calls after those do: an input from outside. -/
  rest : WriteRest
  /-- The byte lists of the calls of `write` that have returned, oldest first (R229, R230). DESIGN CHOICE:
  a call that never returns (R233) does not stand here, although it is an attempt; unsafe for a claim
  that counts attempts (log 13). -/
  sent : List (List Byte)
  deriving DecidableEq, Repr

/-- The whole state. The fields from `rateCode` to `frameBuf` are the block's own (R21); `params`
are its parameters (R7; log 1); the others belong to the host, the consumer and the interleaving. -/
structure State where
  /-- BUF_CAP and CHECK_CHANNEL (R7). -/
  params : Params
  /-- RATE_CODE (R23). -/
  rateCode : Byte
  /-- CHANNEL (R24). -/
  channel : Byte
  /-- AP_MAC[0] to AP_MAC[5] (R25). -/
  apMac : Vector Byte 6
  /-- SSID_LEN (R30). -/
  ssidLen : Byte
  /-- SSID[0] to SSID[254] (R31). -/
  ssid : Memory
  /-- RATES_LEN (R32). -/
  ratesLen : Byte
  /-- RATES[0] to RATES[254] (R33). -/
  rates : Memory
  /-- STATUS.STATE (R35). -/
  state : BuildState
  /-- STATUS.DROP (R36). -/
  drop : Bool
  /-- STATUS.ERR (R38). -/
  err : ErrCode
  /-- FRAME_LEN (R40). -/
  frameLen : Half
  /-- SEQ (R26). -/
  seq : StepCode
  /-- CUR (R28). -/
  cur : Half
  /-- LEN (R29). -/
  len : Half
  /-- FRAME_BUF[0] to FRAME_BUF[BUF_CAP-1] (R41). -/
  frameBuf : Memory
  /-- The host's remaining program, next item first (R103; log 4). -/
  program : List HostItem
  /-- The host's RD trace, oldest byte first (R103, R140; log 4). -/
  trace : List Byte
  /-- How many draws have been made (the model's own; log 2). -/
  draws : Nat
  /-- The agents preferred at the next choices, soonest first (the model's own; log 3). -/
  schedule : List Agent
  /-- How many choices have been left to the free schedule (the model's own; log 3). -/
  turn : Nat
  /-- How many of the last of those choices have passed the engine over (the model's own; log 16). -/
  waited : Nat
  /-- The transmit consumer (R228; log 13). -/
  consumer : Consumer
  deriving DecidableEq, Repr

/-- Why the model stops. None of these is a hardware error: STATUS never reports one (R188, R205). -/
inductive Fault where
  /-- `Model(UnwrittenInput)`: IE_SSID or IE_RATES reads a cell not written since reset (R164). Raised
  by `emitPayload`. Safe: the hardware sends some byte, and no claim about that run can be proved. -/
  | unwrittenInput
  /-- `Model(LengthMismatch)`: a write at or past LEN (R161), or CUR ≠ LEN at FINISH (R177). Raised by
  `put8` and `execFinish`. Safe: unreachable (R181). -/
  | lengthMismatch
  /-- `Model(BadSeq)`: SEQ outside 1..8 while BUSY (R187). Raised by `step`. Safe: unreachable (R46). -/
  | badSeq
  /-- An access outside FRAME_BUF (R41) or above address 0xFFF (R61). Raised by `put8` and by the
  consumer's copy. The model's own (log 7). Safe: unreachable (R46). -/
  | noSuchCell
  deriving DecidableEq, Repr

/-- Why the model gives no meaning. -/
inductive Refusal where
  /-- An instruction whose meaning is not written yet, raised by `exec`. Safe. No arm raises it now. -/
  | notModelled (mnemonic : String)
  /-- `MalformedHT`: the host's program holds a malformed word or line and has no run (R92, R148).
  Raised by `step`. Safe: the spec gives such a program no meaning. -/
  | malformedHT
  deriving DecidableEq, Repr

/-- The host, consumer and schedule before anything is loaded: nothing to do (log 4, 13). -/
def Consumer.none : Consumer := { phase := .off, port := [], rest := .blocks, sent := [] }

/-- The state after power-on (R242): every block register at its reset value of R47, every written
mark clear, the parameters at their values for this hardware (R7), and no host program. -/
def State.reset : State where
  params := Config.defaults
  rateCode := 0#8
  channel := 0#8
  apMac := Vector.replicate 6 0#8
  ssidLen := 0#8
  ssid := []
  ratesLen := 0#8
  rates := []
  state := .idle
  drop := false
  err := .none
  frameLen := 0#16
  seq := 0#4
  cur := 0#16
  len := 0#16
  frameBuf := []
  program := []
  trace := []
  draws := 0
  schedule := []
  turn := 0
  waited := 0
  consumer := Consumer.none

end Sys2Proof.Machine
end

