-- ==== Sys2Proof/Machine/Flags.lean ====
section
/-! DEFINITION. STATUS: its encoding, the three output signals, and the updates of its fields
(10_state.md R35 to R39, R43, R44). -/

namespace Sys2Proof.Machine

/-- The two bits of STATUS.STATE (R35). -/
def stateBits (b : BuildState) : BitVec 2 :=
  match b with
  | .idle => 0#2
  | .busy => 1#2
  | .done => 2#2
  | .error => 3#2

/-- The four bits of STATUS.ERR (R201). -/
def errBits (e : ErrCode) : BitVec 4 :=
  match e with
  | .none => 0#4
  | .badCmd => 1#4
  | .badChannel => 2#4
  | .overflow => 3#4

/-- The bit of STATUS.DROP (R36). -/
def dropBit (d : Bool) : BitVec 1 := BitVec.ofBool d

/-- The STATUS byte: ERR in [7:4], bit 3 hard-wired to 0, DROP in bit 2, STATE in [1:0] (R35 to
R38, R140). -/
def statusByte (s : State) : Byte :=
  ((errBits s.err).setWidth 8 <<< 4) ||| ((dropBit s.drop).setWidth 8 <<< 2) |||
    (stateBits s.state).setWidth 8

/-- Output signal `busy` (R43). -/
def State.busyOut (s : State) : Bool := decide (s.state = .busy)

/-- Output signal `done` (R43). -/
def State.doneOut (s : State) : Bool := decide (s.state = .done)

/-- Output signal `error` (R43). -/
def State.errorOut (s : State) : Bool := decide (s.state = .error)

/-- A write arrived while BUSY: DROP ← 1 and nothing else (R36, R145). -/
def State.dropWrite (s : State) : State := { s with drop := true }

/-- The STATUS fields at an accepted BUILD: STATE ← BUSY, ERR ← NONE, DROP ← 0 (R152). -/
def State.markBusy (s : State) : State := { s with state := .busy, err := .none, drop := false }

/-- The STATUS fields at FINISH: STATE ← DONE; ERR and DROP keep their values (R177). -/
def State.markDone (s : State) : State := { s with state := .done }

/-- The STATUS fields at an error entry: STATE ← ERROR, ERR ← code; DROP unchanged (R206). -/
def State.markError (code : ErrCode) (s : State) : State := { s with state := .error, err := code }

end Sys2Proof.Machine
end

