-- ==== Sys2Proof/Machine/Operands.lean ====
section
/-! DEFINITION. The operand forms: little-endian byte lists (00_scope.md R12), the cells of a
byte array (10_state.md R42), the places of the register-space map (20_memory.md R62) and the byte
lists the engine steps write (30_encoding.md R112 to R125). -/

namespace Sys2Proof.Machine

open Sys2Proof.Config

/-! ## Bytes of a value (R11, R12) -/

/-- `lo8(v) = v[7:0]` (R11). -/
def lo8 (v : Half) : Byte := v.extractLsb' 0 8

/-- `hi8(v) = v[15:8]` (R11). -/
def hi8 (v : Half) : Byte := v.extractLsb' 8 8

/-- `LE16(v)` (R12). -/
def le16 (v : Half) : List Byte := [lo8 v, hi8 v]

/-- `LE32(v)` (R12). -/
def le32 (v : BitVec 32) : List Byte :=
  [v.extractLsb' 0 8, v.extractLsb' 8 8, v.extractLsb' 16 8, v.extractLsb' 24 8]

/-- `rep(n, b)` (R12). -/
def rep (n : Nat) (b : Byte) : List Byte := List.replicate n b

/-! ## Cells of a byte array (R42) -/

/-- The byte of cell `i`, or nothing where the cell is unwritten. -/
def Memory.read (m : Memory) (i : Nat) : Option Byte :=
  match m with
  | [] => none
  | (j, v) :: rest => if i = j then some v else Memory.read rest i

/-- Store byte `v` in cell `i` and mark it written, keeping the indices strictly rising. -/
def Memory.write (m : Memory) (i : Nat) (v : Byte) : Memory :=
  match m with
  | [] => [(i, v)]
  | (j, u) :: rest =>
    if i < j then (i, v) :: (j, u) :: rest
    else if i = j then (i, v) :: rest
    else (j, u) :: Memory.write rest i v

/-- AP_MAC[i], for i below 6 (R25). -/
def macByte (m : Vector Byte 6) (i : Nat) : Byte := m[i]?.getD 0#8

/-- AP_MAC[i] ← v, for i below 6 (R25). -/
def setMac (m : Vector Byte 6) (i : Nat) (v : Byte) : Vector Byte 6 := m.setIfInBounds i v

/-! ## Addresses (R62) -/

/-- CONFIG, the read-write locations (R141). -/
def isConfig (a : Addr) : Bool :=
  (decide (0x005 ≤ a.toNat) && decide (a.toNat ≤ 0x00E)) ||
  (decide (0x100 ≤ a.toNat) && decide (a.toNat ≤ 0x1FE)) ||
  (decide (0x200 ≤ a.toNat) && decide (a.toNat ≤ 0x2FE))

/-- The address of FRAME_BUF[0] (R63). -/
def frameBase : Nat := 0x400

/-! ## The frame length and the bytes each step writes -/

/-- The frame length 52 + SSID_LEN + RATES_LEN, in 16 bits (R131, R152). -/
def frameLength (s : State) : Half :=
  s.ssidLen.setWidth 16 + s.ratesLen.setWidth 16 + fixedLen

/-- The capture-metadata header (R112). -/
def capHdrBytes : List Byte := [capVersion, capPad] ++ le16 capHdrLen ++ le32 presentRate

/-- The masked rate byte (R114). -/
def rateBytes (rc : Byte) : List Byte := [rc &&& rateMask]

/-- The management-frame header (R115, with the sequence control of conflict C1). -/
def mgmtHdrBytes (mac : Vector Byte 6) : List Byte :=
  le16 fcBeacon ++ le16 duration ++ rep 6 broadcastByte ++ mac.toList ++ mac.toList ++ le16 seqCtrl

/-- The beacon body (R120). -/
def bodyBytes : List Byte := rep 8 timestampByte ++ le16 beaconInterval ++ le16 capability

end Sys2Proof.Machine
end

