-- ==== Sys2Proof/Machine/Ops.lean ====
section
/-! DEFINITION. The named operations over the state: register-space reads and writes
(40_host_transactions.md), the error entry (60_exceptions.md R206), the reset (70 R240), the
commands' effects (41_commands.md) and the engine's primitives (42_serializer_steps.md section 1). -/

namespace Sys2Proof.Machine

open Sys2Proof.Config

/-- The outcome of a step or of a part of one. -/
abbrev Result := Host.Outcome State Fault Refusal

/-- Go on from a next state, and stop where the first part stops. -/
def andThen (o : Result) (k : State → Result) : Result :=
  match o with
  | .next s => k s
  | .fault r => .fault r
  | .refused r => .refused r

/-! ## The host's side -/

/-- The host goes on to the next item of its program (R74). -/
def State.advance (s : State) : State := { s with program := s.program.tail }

/-- `draw()`: a byte the model does not fix (R14; log 2). -/
def drawByte (s : State) : Byte × State := (Config.draw s.draws, { s with draws := s.draws + 1 })

/-- A cell's byte where it has one to give, and a draw where it has none (R42, R140). -/
def orDraw (v : Option Byte) (s : State) : Byte × State :=
  match v with
  | some b => (b, s)
  | none => drawByte s

/-- What FRAME_BUF shows of cell `i`: its byte while DONE and below FRAME_LEN, else nothing (R140). -/
def publishedByte (s : State) (i : Nat) : Option Byte :=
  if s.state = .done ∧ i < s.frameLen.toNat then Memory.read s.frameBuf i else none

/-- The byte a RD of address `a` returns, by the table of R140; only a draw moves the state on. -/
def busRead (a : Addr) (s : State) : Byte × State :=
  let n := a.toNat
  if n = 0x000 then (0x00#8, s)
  else if n = 0x001 then (statusByte s, s)
  else if n = 0x002 then (lo8 s.frameLen, s)
  else if n = 0x003 then (hi8 s.frameLen, s)
  else if n = 0x004 then (s.seq.setWidth 8, s)
  else if n = 0x005 then (s.rateCode, s)
  else if n = 0x006 then (s.channel, s)
  else if n = 0x007 then (s.ssidLen, s)
  else if n = 0x008 then (s.ratesLen, s)
  else if n ≤ 0x00E then (macByte s.apMac (n - 0x009), s)
  else if 0x100 ≤ n ∧ n ≤ 0x1FE then orDraw (Memory.read s.ssid (n - 0x100)) s
  else if 0x200 ≤ n ∧ n ≤ 0x2FE then orDraw (Memory.read s.rates (n - 0x200)) s
  else if frameBase ≤ n ∧ n < frameBase + s.params.bufCap then
    orDraw (publishedByte s (n - frameBase)) s
  else (0x00#8, s)

/-- Append a byte to the host's RD trace (R140). -/
def State.record (v : Byte) (s : State) : State := { s with trace := s.trace ++ [v] }

/-- `store(addr, d)` (R142); outside CONFIG it stores nothing. -/
def State.store (a : Addr) (d : Byte) (s : State) : State :=
  let n := a.toNat
  if n = 0x005 then { s with rateCode := d }
  else if n = 0x006 then { s with channel := d }
  else if n = 0x007 then { s with ssidLen := d }
  else if n = 0x008 then { s with ratesLen := d }
  else if 0x009 ≤ n ∧ n ≤ 0x00E then { s with apMac := setMac s.apMac (n - 0x009) d }
  else if 0x100 ≤ n ∧ n ≤ 0x1FE then { s with ssid := Memory.write s.ssid (n - 0x100) d }
  else if 0x200 ≤ n ∧ n ≤ 0x2FE then { s with rates := Memory.write s.rates (n - 0x200) d }
  else s

/-! ## Errors and reset -/

/-- The error entry `raise Error(code)` (R206), the one way into ERROR. Nothing is saved and there is
no return: ERROR is left by an accepted BUILD (`acceptBuild`) or a reset (`resetBlock`) (R210). -/
def raiseError (code : ErrCode) (s : State) : State :=
  { s.markError code with frameLen := 0#16, seq := 0#4 }

/-- Reset of the block (R240): every block state to its value of R47, every written mark cleared. The
parameters, the host, the consumer and the schedule are not the block's and stay. -/
def State.resetBlock (s : State) : State :=
  { State.reset with
    params := s.params, program := s.program, trace := s.trace, draws := s.draws,
    schedule := s.schedule, turn := s.turn, waited := s.waited, consumer := s.consumer }

/-! ## Commands -/

/-- The effect of an accepted BUILD (R152). -/
def acceptBuild (s : State) : State :=
  { s.markBusy with len := frameLength s, cur := 0#16, frameLen := 0#16, seq := 1#4 }

/-- BUILD: the channel check, then the capacity check, then acceptance (R152 to R154, R209). -/
def buildCommand (s : State) : State :=
  if s.params.checkChannel = true ∧ s.channel = 0#8 then raiseError .badChannel s
  else if s.params.bufCap < (frameLength s).toNat then raiseError .overflow s
  else acceptBuild s

/-- `Command(c)` for STATE ≠ BUSY (R150). -/
def command (c : Byte) (s : State) : State :=
  if c = 0x00#8 then s
  else if c = 0x01#8 then buildCommand s
  else raiseError .badCmd s

/-- A write reaches the block: dropped while BUSY (R145), else it has its effect. -/
def deliver (effect : State → State) (s : State) : State :=
  if s.state = .busy then s.dropWrite else effect s

/-- What a WR does when it is not dropped (R141, R143, R144). -/
def busWrite (a : Addr) (d : Byte) (s : State) : State :=
  if a = 0x000#12 then command d s
  else if isConfig a = true then s.store a d
  else s

/-! ## The engine's primitives -/

/-- `seq <- q` (R14). -/
def State.setSeq (q : StepCode) (s : State) : State := { s with seq := q }

/-- BUF[CUR] ← v, marked written, and CUR ← CUR + 1 (R161). -/
def State.pushByte (v : Byte) (s : State) : State :=
  { s with frameBuf := Memory.write s.frameBuf s.cur.toNat v, cur := s.cur + 1#16 }

/-- Put8, the only primitive that writes FRAME_BUF (R161). -/
def put8 (v : Byte) (s : State) : Result :=
  if s.len.toNat ≤ s.cur.toNat then .fault .lengthMismatch
  else if s.params.bufCap ≤ s.cur.toNat then .fault .noSuchCell
  else .next (s.pushByte v)

/-- PutBytes (R162). -/
def putBytes (bs : List Byte) (s : State) : Result :=
  match bs with
  | [] => .next s
  | b :: rest => andThen (put8 b s) (putBytes rest)

/-- CfgByte: the byte of a descriptor cell, or nothing where it is unwritten (R164). -/
def cfgByte (m : Memory) (i : Nat) : Option Byte := Memory.read m i

/-- The loop of EmitTLV over the payload bytes `i`, `i + 1`, ... of which `n` are left (R165). An
unwritten cell faults (R164). -/
def emitPayload (payload : Nat → Option Byte) (i n : Nat) (s : State) : Result :=
  match n with
  | 0 => .next s
  | k + 1 =>
    match payload i with
    | none => .fault .unwrittenInput
    | some v => andThen (put8 v s) (emitPayload payload (i + 1) k)

/-- EmitTLV: element ID, payload length, payload (R165). -/
def emitTLV (id n : Byte) (payload : Nat → Option Byte) (s : State) : Result :=
  andThen (put8 id s) fun s1 => andThen (put8 n s1) (emitPayload payload 0 n.toNat)

/-- A step that writes a byte list and then names the next step (R163). -/
def writeStep (bs : List Byte) (q : StepCode) (s : State) : Result :=
  andThen (putBytes bs s) fun t => .next (t.setSeq q)

/-- A step that writes an element and then names the next step (R163). -/
def tlvStep (id n : Byte) (payload : Nat → Option Byte) (q : StepCode) (s : State) : Result :=
  andThen (emitTLV id n payload s) fun t => .next (t.setSeq q)

/-- FINISH's publication: FRAME_LEN ← LEN, STATE ← DONE, SEQ ← 0 (R177). -/
def publish (s : State) : State := { s.markDone with frameLen := s.len, seq := 0#4 }

end Sys2Proof.Machine
end

