-- ==== Sys2Proof/Machine/Commands.lean ====
section
/-! DEFINITION. The meanings of the command rows NOP, BUILD and the reserved codes
(41_commands.md), each as the WR to CTRL that carries its code (30_encoding.md R95, R104; log 8). -/

namespace Sys2Proof.Machine

/-- NOP (R151), dropped while BUSY (R145, R252). -/
def execNop (s : State) : Result :=
  .next (deliver (fun t => t) s).advance

/-- BUILD (R152 to R154), dropped while BUSY (R145, R252). -/
def execBuild (s : State) : Result :=
  .next (deliver buildCommand s).advance

/-- A reserved code raises BAD_CMD (R155), dropped while BUSY (R145, R252). The code itself is not
kept (R201). -/
def execReservedCmd (_code : Byte) (s : State) : Result :=
  .next (deliver (raiseError .badCmd) s).advance

end Sys2Proof.Machine
end

