-- ==== Sys2Proof/Machine/HostTransactions.lean ====
section
/-! DEFINITION. The meanings of the host transactions WR, RD, RST and WAIT
(40_host_transactions.md). Each takes its item off the host's program, but for a WAIT that holds. -/

namespace Sys2Proof.Machine

/-- WR addr, d (R141 to R145). -/
def execWr (a : Addr) (d : Byte) (s : State) : Result :=
  .next (deliver (busWrite a d) s).advance

/-- RD addr (R140): the byte goes to the host's RD trace, and the block does not change. -/
def execRd (a : Addr) (s : State) : Result :=
  .next (((busRead a s).2).record (busRead a s).1).advance

/-- RST (R146): legal in every state; it aborts a running build. -/
def execRst (s : State) : Result :=
  .next s.resetBlock.advance

/-- WAIT (R147): hold while BUSY, else continue. It changes no block state and appends nothing. -/
def execWait (s : State) : Result :=
  if s.state = .busy then .next s else .next s.advance

end Sys2Proof.Machine
end

