-- ==== Sys2Proof/Machine/Serializer.lean ====
section
/-! DEFINITION. The meanings of the engine steps (42_serializer_steps.md section 2). That a step runs
only while BUSY and when SEQ names it (R160) is the fetch's part (Machine/Fetch.lean; log 11). -/

namespace Sys2Proof.Machine

open Sys2Proof.Config

/-- CAPHDR (R170). -/
def execCaphdr (s : State) : Result := writeStep capHdrBytes 2#4 s

/-- RATE (R171). -/
def execRate (s : State) : Result := writeStep (rateBytes s.rateCode) 3#4 s

/-- MGMTHDR (R172). -/
def execMgmthdr (s : State) : Result := writeStep (mgmtHdrBytes s.apMac) 4#4 s

/-- BODY (R173). -/
def execBody (s : State) : Result := writeStep bodyBytes 5#4 s

/-- IE_SSID (R174). -/
def execIeSsid (s : State) : Result := tlvStep eidSsid s.ssidLen (cfgByte s.ssid) 6#4 s

/-- IE_RATES (R175): each rate byte verbatim, bit 7 kept. -/
def execIeRates (s : State) : Result := tlvStep eidRates s.ratesLen (cfgByte s.rates) 7#4 s

/-- IE_DS (R176). -/
def execIeDs (s : State) : Result := tlvStep eidDs dsLen (fun _ => some s.channel) 8#4 s

/-- FINISH (R177). -/
def execFinish (s : State) : Result :=
  if s.cur ≠ s.len then .fault .lengthMismatch else .next (publish s)

end Sys2Proof.Machine
end

