-- ==== Sys2Proof/Machine/Dispatch.lean ====
section
/-! DEFINITION. One arm per instruction. -/

namespace Sys2Proof.Machine

def exec (i : Instr) (s : State) : Host.Outcome State Fault Refusal :=
  match i with
  | .wr addr data => Sys2Proof.Machine.execWr addr data s
  | .rd addr => Sys2Proof.Machine.execRd addr s
  | .rst => Sys2Proof.Machine.execRst s
  | .wait => Sys2Proof.Machine.execWait s
  | .nop => Sys2Proof.Machine.execNop s
  | .build => Sys2Proof.Machine.execBuild s
  | .reservedCmd code => Sys2Proof.Machine.execReservedCmd code s
  | .caphdr => Sys2Proof.Machine.execCaphdr s
  | .rate => Sys2Proof.Machine.execRate s
  | .mgmthdr => Sys2Proof.Machine.execMgmthdr s
  | .body => Sys2Proof.Machine.execBody s
  | .ieSsid => Sys2Proof.Machine.execIeSsid s
  | .ieRates => Sys2Proof.Machine.execIeRates s
  | .ieDs => Sys2Proof.Machine.execIeDs s
  | .finish => Sys2Proof.Machine.execFinish s

end Sys2Proof.Machine
end

