-- ==== Sys2Proof/WellFormed.lean ====
section
/-! DEFINITION. Which terms of Instr stand for an encoding of the spec. -/

namespace Sys2Proof

/-- A reserved command carries a code 0x02 to 0xFF (R97, R101): 0x00 and 0x01 are NOP and BUILD.
Every other term has an encoding at every operand (R91: ADDR and DATA of a WR are free). -/
def Instr.wellFormed : Instr → Bool
  | .wr _ _ => true
  | .rd _ => true
  | .rst => true
  | .wait => true
  | .nop => true
  | .build => true
  | .reservedCmd code => decide (2 ≤ code.toNat)
  | .caphdr => true
  | .rate => true
  | .mgmthdr => true
  | .body => true
  | .ieSsid => true
  | .ieRates => true
  | .ieDs => true
  | .finish => true

end Sys2Proof
end

