-- ==== Sys2Proof/Decode.lean ====
section
/-! DEFINITION. The three formats of 30_encoding.md Part A (R90), their decoder and encoder, and
the host's reading of an opcode-table word. -/

namespace Sys2Proof

/-- A word of one of the three format classes (R90). The format is given by where the word stands,
not by its bits: an HT word in a host program, a CMD byte in a WR to CTRL, a step code in SEQ. -/
inductive Code where
  | ht (w : HTWord)
  | cmd (c : Byte)
  | seq (q : StepCode)
  deriving DecidableEq, Repr

/-- What a decoder answers: an instruction, or a rejection by name. -/
inductive Decoded where
  | ok (i : Instr)
  /-- A malformed HT word (R92, MalformedHT). -/
  | malformedHT
  /-- A step code that names no step: 0 (no build running, R98) or 9 to 15 (reserved, R99). -/
  | badSeq
  deriving DecidableEq, Repr

/-- KIND, bits [31:30] of an HT word (R91). -/
def htKind (w : HTWord) : BitVec 2 := w.extractLsb' 30 2

/-- The reserved bits [29:28] of an HT word (R91). -/
def htReservedHigh (w : HTWord) : BitVec 2 := w.extractLsb' 28 2

/-- ADDR, bits [27:16] of an HT word (R91). -/
def htAddr (w : HTWord) : Addr := w.extractLsb' 16 12

/-- The reserved bits [15:8] of an HT word (R91). -/
def htReservedLow (w : HTWord) : Byte := w.extractLsb' 8 8

/-- DATA, bits [7:0] of an HT word (R91). -/
def htData (w : HTWord) : Byte := w.extractLsb' 0 8

/-- The decoder of HT words, total on 32-bit words (R92). -/
def decodeHT (w : HTWord) : Decoded :=
  if htReservedHigh w ≠ 0#2 ∨ htReservedLow w ≠ 0#8 then .malformedHT
  else if htKind w = 0#2 then .ok (.wr (htAddr w) (htData w))
  else if htKind w = 1#2 ∧ htData w = 0#8 then .ok (.rd (htAddr w))
  else if htKind w = 2#2 ∧ htAddr w = 0#12 ∧ htData w = 0#8 then .ok .rst
  else if htKind w = 3#2 ∧ htAddr w = 0#12 ∧ htData w = 0#8 then .ok .wait
  else .malformedHT

/-- The decoder of command bytes (R95 to R97): every byte has a row. -/
def decodeCmd (c : Byte) : Instr :=
  if c = 0x00#8 then .nop else if c = 0x01#8 then .build else .reservedCmd c

/-- The decoder of step codes (R98, R99). -/
def decodeSeq (q : StepCode) : Decoded :=
  if q = 1#4 then .ok .caphdr
  else if q = 2#4 then .ok .rate
  else if q = 3#4 then .ok .mgmthdr
  else if q = 4#4 then .ok .body
  else if q = 5#4 then .ok .ieSsid
  else if q = 6#4 then .ok .ieRates
  else if q = 7#4 then .ok .ieDs
  else if q = 8#4 then .ok .finish
  else .badSeq

/-- The decoder, total on the words of every format (R90). -/
def decode : Code → Decoded
  | .ht w => decodeHT w
  | .cmd c => .ok (decodeCmd c)
  | .seq q => decodeSeq q

/-- The HT word with the given KIND, ADDR and DATA and zeros in the reserved bits (R91, R103). -/
def htWord (kind : BitVec 2) (a : Addr) (d : Byte) : HTWord :=
  (kind.setWidth 32 <<< 30) ||| (a.setWidth 32 <<< 16) ||| d.setWidth 32

/-- The encoder: the word of an instruction, in its own format (R91, R96, R97, R98). -/
def encode : Instr → Code
  | .wr a d => .ht (htWord 0#2 a d)
  | .rd a => .ht (htWord 1#2 a 0#8)
  | .rst => .ht (htWord 2#2 0#12 0#8)
  | .wait => .ht (htWord 3#2 0#12 0#8)
  | .nop => .cmd 0x00#8
  | .build => .cmd 0x01#8
  | .reservedCmd code => .cmd code
  | .caphdr => .seq 1#4
  | .rate => .seq 2#4
  | .mgmthdr => .seq 3#4
  | .body => .seq 4#4
  | .ieSsid => .seq 5#4
  | .ieRates => .seq 6#4
  | .ieDs => .seq 7#4
  | .finish => .seq 8#4

/-- The format of a table word of `nbits` bits: HT has 32, CMD 8 and SEQ 4 (R90). DESIGN CHOICE
(log 9): a 4-bit row counted in whole bytes has 8 bits as a CMD row has, so an 8-bit word 2 to 8 is
read as the step code it is in the SEQ rows, and every other 8-bit word as a command byte. -/
def tableCode (nbits w : Nat) : Option Code :=
  if nbits = 32 then some (.ht (BitVec.ofNat 32 w))
  else if nbits = 8 then
    if 2 ≤ w ∧ w ≤ 8 then some (.seq (BitVec.ofNat 4 w)) else some (.cmd (BitVec.ofNat 8 w))
  else if nbits = 4 then some (.seq (BitVec.ofNat 4 w))
  else none

/-- The instruction of an opcode-table word (the host's reading of the table). -/
def decodeTableWord (nbits w : Nat) : Option Instr :=
  match tableCode nbits w with
  | none => none
  | some c =>
    match decode c with
    | .ok i => some i
    | .malformedHT => none
    | .badSeq => none

end Sys2Proof
end

