-- ==== Sys2Proof/Machine/Consumer.lean ====
section
/-! DEFINITION. The transmit consumer, the host-side agent of 60_exceptions.md section 7 (R228 to
R234). It is outside the block (00_scope.md R6) and off at reset (log 13). -/

namespace Sys2Proof.Machine

/-- Put the consumer in a phase. -/
def State.setPhase (p : ConsumerPhase) (s : State) : State :=
  { s with consumer := { s.consumer with phase := p } }

/-- Whether the next call of `write` returns (R232, R233). -/
def Consumer.writeReturns (c : Consumer) : Bool := !c.port.isEmpty || decide (c.rest = .succeeds)

/-- Whether the consumer has a step: it starts only on a STATUS read of DONE (R228), and a write that
never returns blocks it (R233). -/
def consumerReady (s : State) : Bool :=
  match s.consumer.phase with
  | .off => false
  | .waiting => s.doneOut
  | .readLo => true
  | .readHi _ => true
  | .copying _ _ => true
  | .sending _ => s.consumer.writeReturns
  | .failed _ _ _ => false

/-- One byte of the copy of BUF[0..L-1], through the register space (R72, R228). -/
def copyByte (size : Nat) (got : List Byte) (s : State) : Result :=
  if got.length < size then
    if frameBase + got.length < 4096 then
      .next ((busRead (BitVec.ofNat 12 (frameBase + got.length)) s).2.setPhase
        (.copying size (got ++ [(busRead (BitVec.ofNat 12 (frameBase + got.length)) s).1])))
    else .fault .noSuchCell
  else .next (s.setPhase (.sending got))

/-- Where the loop stands after a call of `write(F)`: exactly L goes on, and any other count stops it and
reports the error text (R230, R231). -/
def afterWrite (frame : List Byte) (a : WriteAnswer) : ConsumerPhase :=
  if a.count = (frame.length : Int) then .sending frame else .failed frame a.count a.errorText

/-- One call of `write(F)` with the whole frame (R229 to R233): it returns the port's next answer, or the
whole length where the port always succeeds, or never. Only a call that returns is recorded in `sent`:
DESIGN CHOICE, unsafe for a claim that counts attempts (log 13). -/
def sendFrame (frame : List Byte) (s : State) : State :=
  match s.consumer.port, s.consumer.rest with
  | a :: later, _ =>
    { s with consumer :=
      { s.consumer with
        phase := afterWrite frame a, port := later, sent := s.consumer.sent ++ [frame] } }
  | [], .succeeds => { s with consumer := { s.consumer with sent := s.consumer.sent ++ [frame] } }
  | [], .blocks => s

/-- The consumer's step (R228 to R233). Where it has none it waits. -/
def consumerStep (s : State) : Result :=
  match s.consumer.phase with
  | .off => .next s
  | .waiting => if s.state = .done then .next (s.setPhase .readLo) else .next s
  | .readLo => .next ((busRead 0x002#12 s).2.setPhase (.readHi (busRead 0x002#12 s).1))
  | .readHi lo =>
    .next ((busRead 0x003#12 s).2.setPhase
      (.copying ((busRead 0x003#12 s).1.toNat * 256 + lo.toNat) []))
  | .copying size got => copyByte size got s
  | .sending frame => .next (sendFrame frame s)
  | .failed _ _ _ => .next s

end Sys2Proof.Machine
end

