-- ==== Sys2Proof/Machine/Fetch.lean ====
section
/-! DEFINITION. Who moves next and what it does: the interleaving of 20_memory.md R73 and R74, the
engine's enabling (42_serializer_steps.md R160), the host's hold at WAIT (40 R147), the refusal of a
malformed program (40 R148) and RDFRAME's last part (30 R104). -/

namespace Sys2Proof.Machine

open Sys2Proof.Config

/-- An item the decoder accepts (R92); RDFRAME's last part is no word. -/
def itemOk (h : HostItem) : Bool :=
  match h with
  | .ht w =>
    match decodeHT w with
    | .ok _ => true
    | .malformedHT => false
    | .badSeq => false
  | .frameBytes => true

/-- No malformed word stands in the host's program (R148). -/
def programOk (p : List HostItem) : Bool := p.all itemOk

/-- Whether the host has a step: it has an item left, and it is not held at a WAIT (R147). -/
def hostReady (s : State) : Bool :=
  match s.program with
  | [] => false
  | .frameBytes :: _ => true
  | .ht w :: _ => !(decide (decodeHT w = .ok .wait) && s.busyOut)

/-- Whether the engine has a step (R160). -/
def engineReady (s : State) : Bool := s.busyOut

/-- Whether an agent has a step. -/
def ready (s : State) (a : Agent) : Bool :=
  match a with
  | .host => hostReady s
  | .engine => engineReady s
  | .consumer => consumerReady s

/-- The agents that have a step. -/
def readyAgents (s : State) : List Agent := [Agent.host, Agent.engine, Agent.consumer].filter (ready s)

/-- A choice left to the free values, with the state after it: any agent, but the engine once its
patience has run out, so that it moves in the end (R74, R258; log 3, 16). -/
def freeChoice (s : State) : Agent × State :=
  if engineReady s = true ∧ Config.patience (s.turn - s.waited) ≤ s.waited then
    (.engine, { s with turn := s.turn + 1, waited := 0 })
  else
    (Config.schedule s.turn,
      { s with
        turn := s.turn + 1
        waited := if engineReady s = true ∧ Config.schedule s.turn ≠ .engine then s.waited + 1 else 0 })

/-- The agent preferred at a choice, with the state after the choice: the prescribed schedule's next
one, or a free one once that is used up (R74; log 3). -/
def preferred (s : State) : Agent × State :=
  match s.schedule with
  | a :: later => (a, { s with schedule := later })
  | [] => freeChoice s

/-- The agent that moves, with the state it moves in. Only a choice between several reads the
schedule; a preferred agent that has no step gives way to the first that has one. -/
def chooseAgent (s : State) : Option (Agent × State) :=
  match readyAgents s with
  | [] => none
  | [a] => some (a, s)
  | a :: _ =>
    if ready s (preferred s).1 = true then some (preferred s) else some (a, (preferred s).2)

/-- What the next step does. -/
inductive Fetched where
  /-- Instruction `i`, run in state `s`. -/
  | instr (i : Instr) (s : State)
  /-- RDFRAME's last part. -/
  | frameBytes (s : State)
  /-- A step of the transmit consumer. -/
  | consume (s : State)
  /-- No agent has a step (R160, R224, R241). -/
  | idle
  /-- The program is malformed (R148). -/
  | malformed
  /-- SEQ names no step while BUSY (R187). -/
  | badSeq

/-- The host's next item. -/
def fetchHost (s : State) : Fetched :=
  match s.program with
  | [] => .idle
  | .frameBytes :: _ => .frameBytes s
  | .ht w :: _ =>
    match decodeHT w with
    | .ok i => .instr i s
    | .malformedHT => .malformed
    | .badSeq => .malformed

/-- The engine's next step, named by SEQ (R160). -/
def fetchEngine (s : State) : Fetched :=
  match decodeSeq s.seq with
  | .ok i => .instr i s
  | .malformedHT => .badSeq
  | .badSeq => .badSeq

/-- What the machine does next. -/
def fetch (s : State) : Fetched :=
  if programOk s.program = false then .malformed
  else
    match chooseAgent s with
    | none => .idle
    | some (.host, t) => fetchHost t
    | some (.engine, t) => fetchEngine t
    | some (.consumer, t) => .consume t

/-- `RD addr; RD addr+1; ...; RD addr+n-1`, refused where an address does not fit in 12 bits (R104). -/
def expandRdb (addr n : Nat) : Option (List HostItem) :=
  if addr < 4096 ∧ addr + n ≤ 4096 then
    some ((List.range n).map fun k => .ht (htWord 1#2 (BitVec.ofNat 12 (addr + k)) 0#8))
  else none

/-- `L = (hi << 8) | lo` from the last two bytes of the RD trace (R104). -/
def frameLengthRead (trace : List Byte) : Option Nat :=
  match trace.reverse with
  | hi :: lo :: _ => some (hi.toNat * 256 + lo.toNat)
  | _ => none

/-- RDFRAME's last part becomes `RDB 0x400, L` (R104; log 12). -/
def expandFrameBytes (s : State) : Result :=
  match (frameLengthRead s.trace).bind (expandRdb frameBase) with
  | none => .refused .malformedHT
  | some items => .next { s with program := items ++ s.program.tail }

/-- The host's program is one HT word, and the host moves first (for `withFetchWord`; log 10). -/
def State.placeWord (w : HTWord) (s : State) : State :=
  { s with
    program := [.ht w]
    schedule := if engineReady s || consumerReady s then .host :: s.schedule else s.schedule }

/-- The start offset of step `q` (R132). -/
def startOffset (q : StepCode) (s : State) : Half :=
  if q = 1#4 then 0#16
  else if q = 2#4 then 8#16
  else if q = 3#4 then 9#16
  else if q = 4#4 then 33#16
  else if q = 5#4 then 45#16
  else if q = 6#4 then 47#16 + s.ssidLen.setWidth 16
  else if q = 7#4 then 49#16 + s.ssidLen.setWidth 16 + s.ratesLen.setWidth 16
  else frameLength s

/-- A build has come as far as step `q`, and the engine moves first (for `withFetchWord`; log 10). -/
def State.placeStep (q : StepCode) (s : State) : State :=
  { s with
    state := .busy
    err := .none
    frameLen := 0#16
    seq := q
    cur := startOffset q s
    len := frameLength s
    program := []
    schedule := if consumerReady { s with state := .busy } then .engine :: s.schedule else s.schedule }

end Sys2Proof.Machine
end

