-- ==== Sys2Proof/Machine/Step.lean ====
section
/-! DEFINITION. One step of the machine, and where a word stands so that the next step runs it. -/

namespace Sys2Proof.Machine

/-- One atomic transition (20_memory.md R73). Where no agent has a step the state stays (R160, R241). -/
def step (s : State) : Host.Outcome State Fault Refusal :=
  match fetch s with
  | .instr i t => exec i t
  | .frameBytes t => expandFrameBytes t
  | .consume t => consumerStep t
  | .idle => .next s
  | .malformed => .refused .malformedHT
  | .badSeq => .fault .badSeq

/-- The opcode-table word `w` of `nbits` bits, standing where the next step fetches: an HT word as the
host's program, a command byte as the WR to CTRL that carries it, a step code in SEQ (log 9, 10). -/
def State.withFetchWord (s : State) (nbits w : Nat) : State :=
  match tableCode nbits w with
  | none => s
  | some (.ht word) => s.placeWord word
  | some (.cmd c) => s.placeWord (htWord 0#2 0x000#12 c)
  | some (.seq q) => s.placeStep q

end Sys2Proof.Machine
end

