-- ==== Sys2Proof/Machine/Asm.lean ====
section
/-! DEFINITION. The assembler: statements, pseudo-instructions and their expansions (30_encoding.md
R103, R104), the reading of a line (R103; log 14), and the loading of a program (40 R148). -/

namespace Sys2Proof.Machine

/-- One statement of a host program with its numbers as written (R103, R104). -/
inductive Stmt where
  | wr (addr data : Nat)
  | rd (addr : Nat)
  | rst
  | wait
  | nop
  | build
  /-- WRB addr, b0, b1, ..., bn. -/
  | wrb (addr b0 : Nat) (bs : List Nat)
  /-- WRS addr, "text". -/
  | wrs (addr : Nat) (text : List Char)
  /-- RDB addr, n. -/
  | rdb (addr n : Nat)
  | rdframe
  deriving DecidableEq, Repr

/-- The HT word of `WR addr, data` (R103); the numbers fit where it is used. -/
def wrItem (addr data : Nat) : HostItem :=
  .ht (htWord 0#2 (BitVec.ofNat 12 addr) (BitVec.ofNat 8 data))

/-- The HT word of `RD addr` (R103); the number fits where it is used. -/
def rdItem (addr : Nat) : HostItem := .ht (htWord 1#2 (BitVec.ofNat 12 addr) 0#8)

/-- `WR addr, b0; WR addr+1, b1; ...` (R104), refused where an address does not fit in 12 bits or a
byte in 8 (R103). -/
def expandWrb (addr : Nat) (bs : List Nat) : Option (List HostItem) :=
  match bs with
  | [] => some []
  | b :: rest =>
    if addr < 4096 ∧ b < 256 then (expandWrb (addr + 1) rest).map (wrItem addr b :: ·) else none

/-- The ASCII code of a character (R104). -/
def ascii (c : Char) : Option Nat := if c.toNat < 128 then some c.toNat else none

/-- Every value, or nothing where one is missing. -/
def allSome {α : Type} (l : List (Option α)) : Option (List α) :=
  match l with
  | [] => some []
  | none :: _ => none
  | some a :: rest => (allSome rest).map (a :: ·)

/-- The expansion of a statement (R103, R104), or nothing where the line is refused. -/
def expandStmt (t : Stmt) : Option (List HostItem) :=
  match t with
  | .wr addr data => if addr < 4096 ∧ data < 256 then some [wrItem addr data] else none
  | .rd addr => if addr < 4096 then some [rdItem addr] else none
  | .rst => some [.ht (htWord 2#2 0#12 0#8)]
  | .wait => some [.ht (htWord 3#2 0#12 0#8)]
  | .nop => some [wrItem 0x000 0x00]
  | .build => some [wrItem 0x000 0x01]
  | .wrb addr b0 bs => expandWrb addr (b0 :: bs)
  | .wrs addr text =>
    if addr < 4096 then (allSome (text.map ascii)).bind (expandWrb addr) else none
  | .rdb addr n => expandRdb addr n
  | .rdframe => some [rdItem 0x002, rdItem 0x003, .frameBytes]

/-! ## Reading a line (R103; log 14) -/

/-- White space between the parts of a line. -/
def isBlank (c : Char) : Bool := decide (c = ' ') || decide (c = '\t')

/-- The line up to its comment; a `;` inside a quoted text opens none. -/
def stripComment (quoted : Bool) (cs : List Char) : List Char :=
  match cs with
  | [] => []
  | c :: rest =>
    if c = ';' ∧ quoted = false then []
    else c :: stripComment (if c = '"' then !quoted else quoted) rest

/-- Without the blanks at either end. -/
def trim (cs : List Char) : List Char :=
  ((cs.dropWhile isBlank).reverse.dropWhile isBlank).reverse

/-- The parts between commas. -/
def splitCommas (cs : List Char) : List (List Char) :=
  match cs with
  | [] => [[]]
  | c :: rest =>
    if c = ',' then [] :: splitCommas rest
    else
      match splitCommas rest with
      | [] => [[c]]
      | p :: ps => (c :: p) :: ps

/-- A digit of base 10 or 16. -/
def digit (base : Nat) (c : Char) : Option Nat :=
  let n := c.toNat
  if 48 ≤ n ∧ n ≤ 57 then some (n - 48)
  else if base = 16 ∧ 97 ≤ n ∧ n ≤ 102 then some (n - 87)
  else if base = 16 ∧ 65 ≤ n ∧ n ≤ 70 then some (n - 55)
  else none

/-- The value of digits read after `acc`. -/
def digits (base acc : Nat) (cs : List Char) : Option Nat :=
  match cs with
  | [] => some acc
  | c :: rest =>
    match digit base c with
    | none => none
    | some d => digits base (acc * base + d) rest

/-- A number: hexadecimal with `0x` before it, else decimal (R103). -/
def number (cs : List Char) : Option Nat :=
  match cs with
  | [] => none
  | ['0', 'x'] => none
  | '0' :: 'x' :: hex => digits 16 0 hex
  | dec => digits 10 0 dec

/-- The operands of a statement that takes numbers. -/
def numbers (cs : List Char) : Option (List Nat) :=
  if cs = [] then some [] else allSome ((splitCommas cs).map fun p => number (trim p))

/-- A quoted text: what stands between its two quotes. -/
def quotedText (cs : List Char) : Option (List Char) :=
  match cs with
  | '"' :: rest =>
    match rest.reverse with
    | '"' :: inner => if inner.all (fun c => !decide (c = '"')) then some inner.reverse else none
    | _ => none
  | _ => none

/-- The operands `addr, "text"` of WRS. -/
def textOperands (cs : List Char) : Option Stmt :=
  match number (trim (cs.takeWhile fun c => !decide (c = ','))),
      quotedText (trim ((cs.dropWhile fun c => !decide (c = ',')).tail)) with
  | some addr, some text => some (.wrs addr text)
  | _, _ => none

/-- A statement that takes numbers. -/
def numberStmt (word : List Char) (ops : List Nat) : Option Stmt :=
  if word = ['W', 'R'] then
    match ops with
    | [a, d] => some (.wr a d)
    | _ => none
  else if word = ['R', 'D'] then
    match ops with
    | [a] => some (.rd a)
    | _ => none
  else if word = ['W', 'R', 'B'] then
    match ops with
    | a :: b :: bs => some (.wrb a b bs)
    | _ => none
  else if word = ['R', 'D', 'B'] then
    match ops with
    | [a, n] => some (.rdb a n)
    | _ => none
  else if ops ≠ [] then none
  else if word = ['R', 'S', 'T'] then some .rst
  else if word = ['W', 'A', 'I', 'T'] then some .wait
  else if word = ['N', 'O', 'P'] then some .nop
  else if word = ['B', 'U', 'I', 'L', 'D'] then some .build
  else if word = ['R', 'D', 'F', 'R', 'A', 'M', 'E'] then some .rdframe
  else none

/-- The statement of a line, or nothing where the line is refused (R103). -/
def parseLine (line : List Char) : Option Stmt :=
  let text := trim (stripComment false line)
  let word := text.takeWhile fun c => !isBlank c
  let rest := trim (text.dropWhile fun c => !isBlank c)
  if word = ['W', 'R', 'S'] then textOperands rest
  else (numbers rest).bind (numberStmt word)

/-- A program of statements, refused as a whole where one is refused (R148). -/
def assemble (ts : List Stmt) : Option (List HostItem) := (allSome (ts.map expandStmt)).map List.flatten

/-- A program of lines, refused as a whole where one is refused (R148). -/
def assembleLines (lines : List (List Char)) : Option (List HostItem) :=
  (allSome (lines.map parseLine)).bind assemble

/-- Give the host a program from outside (log 4). -/
def State.load (items : List HostItem) (s : State) : State := { s with program := items }

/-- Give the host a program of lines; a refused line refuses it before its first transaction (R148). -/
def loadLines (lines : List (List Char)) (s : State) : Result :=
  match assembleLines lines with
  | none => .refused .malformedHT
  | some items => .next (s.load items)

end Sys2Proof.Machine
end

