-- ==== Sys2Proof/Machine/Frame.lean ====
section
/-! DEFINITION. The frame as a function of the configuration (42_serializer_steps.md R180), the frame
a host can read (20_memory.md R72), and the parse of its elements (42 R185). -/

namespace Sys2Proof.Machine

/-- `BuildFrame(rc, ch, mac, ssid, rates)`, with the numbers of R180 as they stand there. -/
def buildFrame (rc ch : Byte) (mac : Vector Byte 6) (ssid rates : List Byte) : List Byte :=
  [0x00#8, 0x00#8] ++ le16 9#16 ++ le32 0x00000004#32
    ++ [rc &&& 0x7F#8]
    ++ le16 0x0080#16 ++ le16 0x0000#16 ++ rep 6 0xFF#8 ++ mac.toList ++ mac.toList ++ le16 0x0000#16
    ++ rep 8 0x00#8 ++ le16 100#16 ++ le16 0x0001#16
    ++ [0x00#8, BitVec.ofNat 8 ssid.length] ++ ssid
    ++ [0x01#8, BitVec.ofNat 8 rates.length] ++ rates
    ++ [0x03#8, 0x01#8, ch]

/-- The first `n` cells of a byte array, nothing standing for an unwritten cell. -/
def cells (m : Memory) (n : Nat) : List (Option Byte) := (List.range n).map (Memory.read m)

/-- The frame byte stream `[BUF[0], ..., BUF[FRAME_LEN-1]]` (R72). -/
def publishedFrame (s : State) : List (Option Byte) := cells s.frameBuf s.frameLen.toNat

/-- The frame the current configuration stands for, nothing standing for a byte that an unwritten
descriptor cell would give (R111, R164). -/
def expectedFrame (s : State) : List (Option Byte) :=
  (capHdrBytes ++ rateBytes s.rateCode ++ mgmtHdrBytes s.apMac ++ bodyBytes).map some
    ++ [some Config.eidSsid, some s.ssidLen] ++ cells s.ssid s.ssidLen.toNat
    ++ [some Config.eidRates, some s.ratesLen] ++ cells s.rates s.ratesLen.toNat
    ++ [some Config.eidDs, some Config.dsLen, some s.channel]

/-- Read bytes as a sequence of elements (ID, payload), nothing where they are no such sequence (R185,
R122). At most `fuel` elements are read. -/
def parseElements (fuel : Nat) (bs : List Byte) : Option (List (Byte × List Byte)) :=
  match fuel, bs with
  | _, [] => some []
  | k + 1, id :: n :: rest =>
    if n.toNat ≤ rest.length then
      (parseElements k (rest.drop n.toNat)).map ((id, rest.take n.toNat) :: ·)
    else none
  | _, _ => none

end Sys2Proof.Machine
end

