-- ==== Sys2Proof/Safety.lean ====
section
/-! DEFINITION. The terms claims use: the invariants of 10_state.md R46, what a step that writes frame
bytes leaves, the end of a run (60_exceptions.md R224), and the duties of a host (60 R222). -/

namespace Sys2Proof.Machine

open Sys2Proof.Config

/-- The three byte arrays keep their canonical form and their bounds (R31, R33, R41). -/
structure MemInv (s : State) : Prop where
  ssidWf : Memory.wf s.ssid
  ssidBound : ∀ c ∈ s.ssid, c.1 < 255
  ratesWf : Memory.wf s.rates
  ratesBound : ∀ c ∈ s.rates, c.1 < 255
  frameWf : Memory.wf s.frameBuf
  frameBound : ∀ c ∈ s.frameBuf, c.1 < s.params.bufCap

/-- The invariants of R46 and R40 over the control and status registers. -/
structure ControlInv (s : State) : Prop where
  /-- The parameters are legal (R7). -/
  legal : s.params.legal
  /-- R46 (a). -/
  busySeq : s.state = .busy ↔ 1 ≤ s.seq.toNat ∧ s.seq.toNat ≤ 8
  /-- R46 (b). -/
  restSeq : s.state ≠ .busy → s.seq = 0#4
  /-- R46 (c), with LEN as R152 computed it. -/
  busyLen : s.state = .busy →
    s.len = frameLength s ∧ s.len.toNat ≤ s.params.bufCap ∧ s.cur = startOffset s.seq s
  /-- A running build passed the channel check (R153). -/
  busyChannel : s.state = .busy → s.params.checkChannel = true → s.channel ≠ 0#8
  /-- R46 (d), its first half, and the legal values of R40. -/
  doneLen : s.state = .done →
    s.frameLen = s.len ∧ 52 ≤ s.frameLen.toNat ∧ s.frameLen.toNat ≤ 562 ∧
      s.frameLen.toNat ≤ s.params.bufCap
  /-- FRAME_LEN is 0 outside DONE (R40). -/
  restLen : s.state ≠ .done → s.frameLen = 0#16
  /-- R46 (e). -/
  errState : s.err ≠ .none ↔ s.state = .error

/-- The invariant of R46 (d) over the frame's bytes: while BUSY the bytes written so far are those of
the configuration's frame, and while DONE the published frame is the frame of some configuration. -/
structure FrameInv (s : State) : Prop where
  busyBytes : s.state = .busy →
    ∀ i, i < s.cur.toNat →
      ∃ b, Memory.read s.frameBuf i = some b ∧ (expectedFrame s)[i]? = some (some b)
  doneFrame : s.state = .done → ∃ rc ch mac ssid rates,
    (s.params.checkChannel = true → ch ≠ 0#8) ∧ ssid.length ≤ 255 ∧ rates.length ≤ 255 ∧
      publishedFrame s = (buildFrame rc ch mac ssid rates).map some

/-- What a consumer copies is no longer than FRAME_LEN's two halves can say (R40, R228; log 13). -/
structure ConsumerInv (s : State) : Prop where
  copySize : ∀ size got, s.consumer.phase = .copying size got → size ≤ 767

/-- All the invariants together (R46). -/
structure BfsInv (s : State) : Prop where
  mem : MemInv s
  control : ControlInv s
  frame : FrameInv s
  consumer : ConsumerInv s

/-- The next `n` cells from CUR lie below LEN and inside FRAME_BUF (R161). -/
abbrev Fits (n : Nat) (s : State) : Prop :=
  s.cur.toNat + n ≤ s.len.toNat ∧ s.cur.toNat + n ≤ s.params.bufCap

/-- What a step that writes `bs` from CUR on and names `q` as the next step leaves: FRAME_BUF holds
`bs` there and is unchanged elsewhere, CUR has moved past it, and nothing else has changed. -/
def WroteBytes (bs : List Byte) (q : StepCode) (s t : State) : Prop :=
  t = { s with cur := t.cur, seq := q, frameBuf := t.frameBuf } ∧
  t.cur.toNat = s.cur.toNat + bs.length ∧
  (∀ a, s.cur.toNat ≤ a → a < s.cur.toNat + bs.length →
    Memory.read t.frameBuf a = bs[a - s.cur.toNat]?) ∧
  (∀ a, a < s.cur.toNat ∨ s.cur.toNat + bs.length ≤ a →
    Memory.read t.frameBuf a = Memory.read s.frameBuf a)

/-- After a RD that returned `v`: it stands on the RD trace, and the host goes on (R140). -/
def afterRead (v : Byte) (s : State) : State :=
  { s with trace := s.trace ++ [v], program := s.program.tail }

/-- After a RD that returned a draw (R140; log 2). -/
def afterDraw (s : State) : State :=
  { s with
    trace := s.trace ++ [Config.draw s.draws], draws := s.draws + 1, program := s.program.tail }

/-- The error entry of R206 with code `c`, field by field, for the WR the host issued. -/
def afterError (c : ErrCode) (s : State) : State :=
  { s with state := .error, err := c, frameLen := 0#16, seq := 0#4, program := s.program.tail }

/-- The part of a byte list from `at_` on, `n` bytes long. -/
def slice (bs : List Byte) (at_ n : Nat) : List Byte := (bs.drop at_).take n

/-- The reserved addresses of R62, R64. -/
abbrev Reserved (a : Addr) (s : State) : Prop :=
  (0x00F ≤ a.toNat ∧ a.toNat ≤ 0x0FF) ∨ a.toNat = 0x1FF ∨ (0x2FF ≤ a.toNat ∧ a.toNat ≤ 0x3FF) ∨
    0x400 + s.params.bufCap ≤ a.toNat

/-- The descriptor cells `m[0]` to `m[n-1]` hold the bytes `bs`, each written (R164, R222 (a)). -/
def Holds (m : Memory) (n : Byte) (bs : List Byte) : Prop := cells m n.toNat = bs.map some

/-- The configuration registers of two states are equal (R186). -/
def SameConfig (s t : State) : Prop :=
  t.rateCode = s.rateCode ∧ t.channel = s.channel ∧ t.apMac = s.apMac ∧ t.ssidLen = s.ssidLen ∧
    t.ssid = s.ssid ∧ t.ratesLen = s.ratesLen ∧ t.rates = s.rates

/-- Nobody but the engine can move: the host has no item left and no consumer is attached. -/
def EngineAlone (s : State) : Prop := s.program = [] ∧ s.consumer.phase = .off

/-- How many choices at most pass a waiting engine over before it moves (R258; log 16). -/
def engineDelay (s : State) : Nat :=
  s.schedule.length + (Config.patience (s.turn - s.waited) - s.waited)

/-- A running build is carried through in `n` steps, whoever takes them: it publishes at the last of
them, and every state before that is BUSY, so no RST has come between (R224). -/
def BuildRun (n : Nat) (s t : State) : Prop :=
  core.run n s = .next t ∧ t.state = .done ∧
    ∀ k, k < n → ∃ u : State, core.run k s = .next u ∧ u.state = .busy

/-- The run of a host program has ended (R224): nothing left to issue, and no build running. -/
def RunEnded (s : State) : Prop := s.program = [] ∧ s.state ≠ .busy

end Sys2Proof.Machine
end

