-- ==== Sys2Proof/Certificates/Slice0/Obligations.lean ====
section
/-! DEFINITION. The statements for the provers: what the instructions and the machine do, from the
numbered rules of spec/. -/

open Sys2Proof Sys2Proof.Machine

/-! ## Encodings (30_encoding.md Part A) -/

/-- R91, R96 to R98: no bit of an encoding is dropped. -/
def Obligations.DecodeOfEncode : Prop :=
  ∀ i : Instr, i.wellFormed = true → decode (encode i) = .ok i

/-- R90 to R92, R97, R98: each word has one meaning, and the decoder answers well-formed terms alone. -/
def Obligations.EncodeOfDecode : Prop :=
  ∀ (c : Code) (i : Instr), decode c = .ok i → i.wellFormed = true ∧ encode i = c

/-- R92, with the fields of R91 as quotients and remainders of the word's number. -/
def Obligations.HostWordDecoding : Prop :=
  ∀ w : HTWord,
    decodeHT w =
      if w.toNat / 2 ^ 28 % 4 ≠ 0 ∨ w.toNat / 2 ^ 8 % 256 ≠ 0 then .malformedHT
      else if w.toNat / 2 ^ 30 = 0 then
        .ok (.wr (BitVec.ofNat 12 (w.toNat / 2 ^ 16)) (BitVec.ofNat 8 w.toNat))
      else if w.toNat / 2 ^ 30 = 1 ∧ w.toNat % 256 = 0 then
        .ok (.rd (BitVec.ofNat 12 (w.toNat / 2 ^ 16)))
      else if w.toNat = 0x80000000 then .ok .rst
      else if w.toNat = 0xC0000000 then .ok .wait
      else .malformedHT

/-- R96, R97 (command codes) and R98, R99 (step codes). -/
def Obligations.CommandAndStepCodes : Prop :=
  decodeCmd 0x00#8 = .nop ∧ decodeCmd 0x01#8 = .build ∧
  (∀ c : Byte, 2 ≤ c.toNat → decodeCmd c = .reservedCmd c) ∧
  decodeSeq 1#4 = .ok .caphdr ∧ decodeSeq 2#4 = .ok .rate ∧ decodeSeq 3#4 = .ok .mgmthdr ∧
  decodeSeq 4#4 = .ok .body ∧ decodeSeq 5#4 = .ok .ieSsid ∧ decodeSeq 6#4 = .ok .ieRates ∧
  decodeSeq 7#4 = .ok .ieDs ∧ decodeSeq 8#4 = .ok .finish ∧
  (∀ q : StepCode, q.toNat = 0 ∨ 9 ≤ q.toNat → decodeSeq q = .badSeq)

/-- The words of 95_test_vectors.md L2.1. -/
def Obligations.SampleWordsDecode : Prop :=
  decodeHT 0x00060006#32 = .ok (.wr 0x006#12 0x06#8) ∧
  decodeHT 0x0FFE00AB#32 = .ok (.wr 0xFFE#12 0xAB#8) ∧
  decodeHT 0x40020000#32 = .ok (.rd 0x002#12) ∧
  decodeHT 0x4FFF0000#32 = .ok (.rd 0xFFF#12) ∧
  decodeHT 0x80000000#32 = .ok .rst ∧
  decodeHT 0xC0000000#32 = .ok .wait ∧
  decodeHT 0x10000000#32 = .malformedHT ∧
  decodeHT 0x00060106#32 = .malformedHT ∧
  decodeHT 0x40020001#32 = .malformedHT ∧
  decodeHT 0xC0040000#32 = .malformedHT

/-! ## A step runs the decoded instruction (20_memory.md R73, R74; 42_serializer_steps.md R160) -/

/-- The host's next word runs where no other agent has a step (R74). The step adds nothing to exec. -/
def Obligations.HostStepRunsInstruction : Prop :=
  ∀ (s : State) (w : HTWord) (rest : List HostItem) (i : Instr),
    s.program = .ht w :: rest → programOk s.program = true → decodeHT w = .ok i →
    s.state ≠ .busy → consumerReady s = false →
    step s = exec i s

/-- While BUSY the step SEQ names runs where no other agent has a step: the host is through, or it is
held at a WAIT (R147, R160). The step adds nothing to exec. -/
def Obligations.EngineStepRunsInstruction : Prop :=
  ∀ (s : State) (i : Instr),
    s.state = .busy → decodeSeq s.seq = .ok i → consumerReady s = false →
    programOk s.program = true →
    (s.program = [] ∨ ∃ w rest, s.program = .ht w :: rest ∧ decodeHT w = .ok .wait) →
    step s = exec i s

/-- Where host and engine can both move, the prescribed schedule says which does; where it is used up,
one of the two does (R73, R74; the schedule is the model's, log 3). And the engine is not passed over for
ever (R258): in a run of more steps than its delay it moves, or the build ends (the bound is a free value
of the model's, log 16). -/
def Obligations.HostAndEngineInterleave : Prop :=
  (∀ (s : State) (w : HTWord) (rest : List HostItem) (i j : Instr),
    s.program = .ht w :: rest → programOk s.program = true → decodeHT w = .ok i → i ≠ .wait →
    s.state = .busy → decodeSeq s.seq = .ok j → consumerReady s = false →
    (∀ later, s.schedule = .host :: later → step s = exec i { s with schedule := later }) ∧
    (∀ later, s.schedule = .engine :: later → step s = exec j { s with schedule := later }) ∧
    (s.schedule = [] → ∃ u : State, u = { s with turn := s.turn + 1, waited := u.waited } ∧
      (step s = exec i u ∨ step s = exec j u))) ∧
  (∀ (s t : State) (n : Nat), engineDelay s < n → core.run n s = .next t →
    ∃ k, k < n ∧ ∃ u : State, core.run k s = .next u ∧
      (u.state ≠ .busy ∨ ∃ (i : Instr) (v : State),
        v = { u with schedule := v.schedule, turn := v.turn, waited := v.waited } ∧
          decodeSeq u.seq = .ok i ∧ step u = exec i v))

/-- R187, where the engine moves (R160). -/
def Obligations.BadStepCodeFaults : Prop :=
  ∀ s : State,
    s.state = .busy → (s.seq.toNat = 0 ∨ 9 ≤ s.seq.toNat) → EngineAlone s →
    step s = .fault .badSeq

/-- R148: a malformed word anywhere in the program, or a line refused by R103 or R104, refuses it all. -/
def Obligations.MalformedProgramRefused : Prop :=
  (∀ (s : State) (w : HTWord),
    HostItem.ht w ∈ s.program → decodeHT w = .malformedHT → step s = .refused .malformedHT) ∧
  (∀ (lines : List (List Char)) (l : List Char) (s : State),
    l ∈ lines → (parseLine l).bind expandStmt = none → loadLines lines s = .refused .malformedHT)

/-- R160, R241: with no build running and no item left, nothing happens (the stutter is log 4's). -/
def Obligations.IdleMachineStays : Prop :=
  ∀ s : State, RunEnded s → consumerReady s = false → step s = .next s

/-! ## Host transactions (40_host_transactions.md) -/

/-- R140, the addresses 0x000 to 0x00E, with the numbers of STATE (R35) and ERR (R38, R201). -/
def Obligations.ReadRegisters : Prop :=
  ∀ s : State,
    exec (.rd 0x000#12) s = .next (afterRead 0x00#8 s) ∧
    (∃ v : Byte, exec (.rd 0x001#12) s = .next (afterRead v s) ∧
      v.toNat =
        (match s.err with
          | .none => 0
          | .badCmd => 1
          | .badChannel => 2
          | .overflow => 3) * 16 +
        (if s.drop = true then 4 else 0) +
        (match s.state with
          | .idle => 0
          | .busy => 1
          | .done => 2
          | .error => 3)) ∧
    (∃ lo hi : Byte, exec (.rd 0x002#12) s = .next (afterRead lo s) ∧
      exec (.rd 0x003#12) s = .next (afterRead hi s) ∧ hi.toNat * 256 + lo.toNat = s.frameLen.toNat) ∧
    (∃ v : Byte, exec (.rd 0x004#12) s = .next (afterRead v s) ∧ v.toNat = s.seq.toNat) ∧
    exec (.rd 0x005#12) s = .next (afterRead s.rateCode s) ∧
    exec (.rd 0x006#12) s = .next (afterRead s.channel s) ∧
    exec (.rd 0x007#12) s = .next (afterRead s.ssidLen s) ∧
    exec (.rd 0x008#12) s = .next (afterRead s.ratesLen s) ∧
    (∀ (i : Nat) (h : i < 6), exec (.rd (BitVec.ofNat 12 (0x009 + i))) s = .next (afterRead s.apMac[i] s))

/-- R64, its RD half: a reserved address reads 0x00. -/
def Obligations.ReadReservedAddress : Prop :=
  ∀ (a : Addr) (s : State), Reserved a s → exec (.rd a) s = .next (afterRead 0x00#8 s)

/-- R140, the descriptor arrays: a written cell's byte, and a draw for an unwritten one (R42). -/
def Obligations.ReadDescriptorCell : Prop :=
  ∀ (i : Nat) (s : State), i < 255 →
    (∀ v, Memory.read s.ssid i = some v →
      exec (.rd (BitVec.ofNat 12 (0x100 + i))) s = .next (afterRead v s)) ∧
    (Memory.read s.ssid i = none →
      exec (.rd (BitVec.ofNat 12 (0x100 + i))) s = .next (afterDraw s)) ∧
    (∀ v, Memory.read s.rates i = some v →
      exec (.rd (BitVec.ofNat 12 (0x200 + i))) s = .next (afterRead v s)) ∧
    (Memory.read s.rates i = none →
      exec (.rd (BitVec.ofNat 12 (0x200 + i))) s = .next (afterDraw s))

/-- R140, FRAME_BUF: exact while DONE and below FRAME_LEN, else a draw (R250, R255). -/
def Obligations.ReadFrameBuffer : Prop :=
  ∀ (i : Nat) (s : State), i < s.params.bufCap → i < 3072 →
    (∀ v, s.state = .done → i < s.frameLen.toNat → Memory.read s.frameBuf i = some v →
      exec (.rd (BitVec.ofNat 12 (0x400 + i))) s = .next (afterRead v s)) ∧
    (s.state ≠ .done ∨ s.frameLen.toNat ≤ i ∨ Memory.read s.frameBuf i = none →
      exec (.rd (BitVec.ofNat 12 (0x400 + i))) s = .next (afterDraw s))

/-- R65, R140: a RD is legal at every address in every state, and changes nothing of the block. -/
def Obligations.ReadHasNoSideEffect : Prop :=
  ∀ (a : Addr) (s : State), ∃ (v : Byte) (n : Nat),
    exec (.rd a) s =
      .next { s with trace := s.trace ++ [v], draws := s.draws + n, program := s.program.tail }

/-- R142, the scalar locations and AP_MAC. -/
def Obligations.WriteConfigRegister : Prop :=
  ∀ (d : Byte) (s : State), s.state ≠ .busy →
    exec (.wr 0x005#12 d) s = .next { s with rateCode := d, program := s.program.tail } ∧
    exec (.wr 0x006#12 d) s = .next { s with channel := d, program := s.program.tail } ∧
    exec (.wr 0x007#12 d) s = .next { s with ssidLen := d, program := s.program.tail } ∧
    exec (.wr 0x008#12 d) s = .next { s with ratesLen := d, program := s.program.tail } ∧
    (∀ (i : Nat) (h : i < 6),
      exec (.wr (BitVec.ofNat 12 (0x009 + i)) d) s =
        .next { s with apMac := s.apMac.set i d, program := s.program.tail })

/-- R142, the descriptor arrays: the cell addressed gets the byte and its mark, every other cell of
both arrays and all else stays. -/
def Obligations.WriteDescriptorCell : Prop :=
  ∀ (i : Nat) (d : Byte) (s : State), s.state ≠ .busy → i < 255 →
    (∃ t, exec (.wr (BitVec.ofNat 12 (0x100 + i)) d) s = .next t ∧
      t = { s with ssid := t.ssid, program := s.program.tail } ∧
      ∀ j, Memory.read t.ssid j = if j = i then some d else Memory.read s.ssid j) ∧
    (∃ t, exec (.wr (BitVec.ofNat 12 (0x200 + i)) d) s = .next t ∧
      t = { s with rates := t.rates, program := s.program.tail } ∧
      ∀ j, Memory.read t.rates j = if j = i then some d else Memory.read s.rates j)

/-- R144, R64: a WR to a read-only or reserved address has no effect. -/
def Obligations.WriteIgnored : Prop :=
  ∀ (a : Addr) (d : Byte) (s : State), s.state ≠ .busy →
    (1 ≤ a.toNat ∧ a.toNat ≤ 4) ∨ (0x00F ≤ a.toNat ∧ a.toNat ≤ 0x0FF) ∨ a.toNat = 0x1FF ∨
      0x2FF ≤ a.toNat →
    exec (.wr a d) s = .next { s with program := s.program.tail }

/-- R145: whatever its address and data. -/
def Obligations.WriteDroppedWhileBusy : Prop :=
  ∀ (a : Addr) (d : Byte) (s : State), s.state = .busy →
    exec (.wr a d) s = .next { s with drop := true, program := s.program.tail }

/-- R65: writing the same byte twice to a location other than CTRL leaves what writing it once does. -/
def Obligations.ConfigWriteIdempotent : Prop :=
  ∀ (a : Addr) (d : Byte) (s t : State), a ≠ 0x000#12 → exec (.wr a d) s = .next t →
    exec (.wr a d) t = .next { t with program := t.program.tail }

/-- R146, R240: the block at its reset values, in every state; the rest of State is not the block's. -/
def Obligations.ResetTransaction : Prop :=
  ∀ s : State,
    exec .rst s = .next
      { params := s.params
        rateCode := 0#8, channel := 0#8, apMac := Vector.replicate 6 0#8
        ssidLen := 0#8, ssid := [], ratesLen := 0#8, rates := []
        state := .idle, drop := false, err := .none
        frameLen := 0#16, seq := 0#4, cur := 0#16, len := 0#16, frameBuf := []
        program := s.program.tail, trace := s.trace, draws := s.draws
        schedule := s.schedule, turn := s.turn, waited := s.waited, consumer := s.consumer }

/-- R147: WAIT continues outside BUSY, changing nothing and appending nothing. That exec of a WAIT while
BUSY answers the state as it is, is the model's form of the hold (log 11). -/
def Obligations.WaitTransaction : Prop :=
  ∀ s : State,
    (s.state ≠ .busy → exec .wait s = .next { s with program := s.program.tail }) ∧
    (s.state = .busy → exec .wait s = .next s)

/-- R47, R242: the values the spec gives at reset, read back by the host. -/
def Obligations.ResetValues : Prop :=
  State.reset.rateCode = 0x00#8 ∧ State.reset.channel = 0x00#8 ∧
  State.reset.apMac.toList = [0x00#8, 0x00#8, 0x00#8, 0x00#8, 0x00#8, 0x00#8] ∧
  State.reset.ssidLen = 0x00#8 ∧ State.reset.ratesLen = 0x00#8 ∧
  statusByte State.reset = 0x00#8 ∧ State.reset.frameLen = 0x0000#16 ∧ State.reset.seq = 0#4 ∧
  State.reset.cur = 0x0000#16 ∧ State.reset.len = 0x0000#16 ∧
  (∀ i, Memory.read State.reset.ssid i = none ∧ Memory.read State.reset.rates i = none ∧
    Memory.read State.reset.frameBuf i = none)

/-- R43: the output signals are copies of STATE. -/
def Obligations.OutputSignals : Prop :=
  ∀ s : State,
    (s.busyOut = true ↔ stateBits s.state = 1#2) ∧ (s.doneOut = true ↔ stateBits s.state = 2#2) ∧
      (s.errorOut = true ↔ stateBits s.state = 3#2)

/-- R104: the pseudo-instructions NOP and BUILD, and a reserved code, mean the WR to CTRL. -/
def Obligations.CommandsAreControlWrites : Prop :=
  ∀ s : State,
    exec .nop s = exec (.wr 0x000#12 0x00#8) s ∧ exec .build s = exec (.wr 0x000#12 0x01#8) s ∧
    ∀ c : Byte, (Instr.reservedCmd c).wellFormed = true →
      exec (.reservedCmd c) s = exec (.wr 0x000#12 c) s

/-- R103, R104: the expansions, with the HT words as numbers, and the refusal of what does not fit: an
address past 12 bits, a byte past 8, a character of WRS outside ASCII (that one is log 14's choice). -/
def Obligations.AssemblerExpansions : Prop :=
  (∀ addr data, addr < 4096 → data < 256 →
    expandStmt (.wr addr data) = some [.ht (BitVec.ofNat 32 (addr * 65536 + data))]) ∧
  (∀ addr data, 4096 ≤ addr ∨ 256 ≤ data → expandStmt (.wr addr data) = none) ∧
  (∀ addr, addr < 4096 → expandStmt (.rd addr) = some [.ht (BitVec.ofNat 32 (0x40000000 + addr * 65536))]) ∧
  (∀ addr, 4096 ≤ addr → expandStmt (.rd addr) = none) ∧
  expandStmt .rst = some [.ht 0x80000000#32] ∧ expandStmt .wait = some [.ht 0xC0000000#32] ∧
  expandStmt .nop = expandStmt (.wr 0x000 0x00) ∧ expandStmt .build = expandStmt (.wr 0x000 0x01) ∧
  (∀ addr b bs, addr + bs.length < 4096 → (∀ x ∈ b :: bs, x < 256) →
    expandStmt (.wrb addr b bs) =
      some ((b :: bs).zipIdx.map fun p => .ht (BitVec.ofNat 32 ((addr + p.2) * 65536 + p.1)))) ∧
  (∀ addr b bs, 4096 ≤ addr + bs.length ∨ (∃ x ∈ b :: bs, 256 ≤ x) → expandStmt (.wrb addr b bs) = none) ∧
  (∀ addr c text, addr + text.length < 4096 → (∀ x ∈ c :: text, x.toNat < 128) →
    expandStmt (.wrs addr (c :: text)) =
      some ((c :: text).zipIdx.map fun p => .ht (BitVec.ofNat 32 ((addr + p.2) * 65536 + p.1.toNat)))) ∧
  (∀ addr c text, 4096 ≤ addr + text.length ∨ (∃ x ∈ c :: text, 128 ≤ x.toNat) →
    expandStmt (.wrs addr (c :: text)) = none) ∧
  (∀ addr n, addr < 4096 → addr + n ≤ 4096 →
    expandStmt (.rdb addr n) =
      some ((List.range n).map fun k => .ht (BitVec.ofNat 32 (0x40000000 + (addr + k) * 65536)))) ∧
  (∀ addr n, 4096 ≤ addr ∨ 4096 < addr + n → expandStmt (.rdb addr n) = none) ∧
  expandStmt .rdframe = some [.ht 0x40020000#32, .ht 0x40030000#32, .frameBytes]

/-- R104: after its two RDs, RDFRAME goes on as `RDB 0x400, L`, with L from the bytes they returned. -/
def Obligations.ReadFrameExpands : Prop :=
  ∀ (s : State) (rest : List HostItem) (before : List Byte) (lo hi : Byte),
    s.program = .frameBytes :: rest → programOk s.program = true → s.state ≠ .busy →
    consumerReady s = false → s.trace = before ++ [lo, hi] → hi.toNat * 256 + lo.toNat ≤ 3072 →
    step s = .next { s with program :=
      ((List.range (hi.toNat * 256 + lo.toNat)).map fun k =>
        HostItem.ht (BitVec.ofNat 32 (0x40000000 + (0x400 + k) * 65536))) ++ rest }

/-! ## Commands (41_commands.md) and errors (60_exceptions.md) -/

/-- R151. -/
def Obligations.NopDoesNothing : Prop :=
  ∀ s : State, s.state ≠ .busy → exec .nop s = .next { s with program := s.program.tail }

/-- R152, R153 and R154, from IDLE, DONE and ERROR alike: the channel check, the capacity check with the
error entry of R206, and acceptance. -/
def Obligations.BuildCommand : Prop :=
  ∀ s : State, s.state ≠ .busy →
    (s.params.checkChannel = true → s.channel = 0x00#8 →
      exec .build s = .next (afterError .badChannel s)) ∧
    (s.params.checkChannel = false ∨ s.channel ≠ 0x00#8 →
      s.params.bufCap < 52 + s.ssidLen.toNat + s.ratesLen.toNat →
      exec .build s = .next (afterError .overflow s)) ∧
    (s.params.checkChannel = false ∨ s.channel ≠ 0x00#8 →
      52 + s.ssidLen.toNat + s.ratesLen.toNat ≤ s.params.bufCap →
      exec .build s = .next { s with
        len := BitVec.ofNat 16 (52 + s.ssidLen.toNat + s.ratesLen.toNat)
        cur := 0#16, frameLen := 0#16, err := .none, drop := false, state := .busy, seq := 1#4
        program := s.program.tail })

/-- R155, with the error entry of R206. -/
def Obligations.ReservedCommandFails : Prop :=
  ∀ (c : Byte) (s : State), s.state ≠ .busy → (Instr.reservedCmd c).wellFormed = true →
    exec (.reservedCmd c) s = .next (afterError .badCmd s)

/-- R209: which of the outcomes a WR to CTRL has, first match wins. -/
def Obligations.ErrorPriority : Prop :=
  ∀ (c : Byte) (s : State),
    exec (.wr 0x000#12 c) s = .next
      (if s.state = .busy then { s with drop := true, program := s.program.tail }
       else if 2 ≤ c.toNat then afterError .badCmd s
       else if c.toNat = 0 then { s with program := s.program.tail }
       else if s.params.checkChannel = true ∧ s.channel.toNat = 0 then afterError .badChannel s
       else if s.params.bufCap < 52 + s.ssidLen.toNat + s.ratesLen.toNat then afterError .overflow s
       else (acceptBuild s).advance)

/-- R252: a command while BUSY is lost, and the build goes on. -/
def Obligations.CommandsDroppedWhileBusy : Prop :=
  ∀ (c : Byte) (s : State), s.state = .busy →
    exec .nop s = .next { s with drop := true, program := s.program.tail } ∧
    exec .build s = .next { s with drop := true, program := s.program.tail } ∧
    exec (.reservedCmd c) s = .next { s with drop := true, program := s.program.tail }

/-- R210: ERROR is left by an accepted BUILD or a RST, and ERR changes in it by a failing command alone. -/
def Obligations.ErrorLeftInTwoWays : Prop :=
  ∀ s t : State, s.state = .error → step s = .next t →
    (t.state = .error ∧ t.err = s.err) ∨
    ∃ w rest, s.program = .ht w :: rest ∧
      ((t.state = .error ∧ ∃ c : Byte, c ≠ 0x00#8 ∧ decodeHT w = .ok (.wr 0x000#12 c)) ∨
       (decodeHT w = .ok (.wr 0x000#12 0x01#8) ∧ t.state = .busy ∧ t.err = .none) ∨
       (decodeHT w = .ok .rst ∧ t.state = .idle ∧ t.err = .none))

/-! ## Engine steps (42_serializer_steps.md section 2) -/

/-- R170. -/
def Obligations.CaphdrWrites : Prop :=
  ∀ s : State, Fits 8 s → ∃ t, exec .caphdr s = .next t ∧
    WroteBytes [0x00#8, 0x00#8, 0x09#8, 0x00#8, 0x04#8, 0x00#8, 0x00#8, 0x00#8] 2#4 s t

/-- R171. -/
def Obligations.RateWrites : Prop :=
  ∀ s : State, Fits 1 s → ∃ t, exec .rate s = .next t ∧
    WroteBytes [BitVec.ofNat 8 (s.rateCode.toNat % 128)] 3#4 s t

/-- R172. -/
def Obligations.MgmthdrWrites : Prop :=
  ∀ s : State, Fits 24 s → ∃ t, exec .mgmthdr s = .next t ∧
    WroteBytes ([0x80#8, 0x00#8, 0x00#8, 0x00#8, 0xFF#8, 0xFF#8, 0xFF#8, 0xFF#8, 0xFF#8, 0xFF#8] ++
      s.apMac.toList ++ s.apMac.toList ++ [0x00#8, 0x00#8]) 4#4 s t

/-- R173. -/
def Obligations.BodyWrites : Prop :=
  ∀ s : State, Fits 12 s → ∃ t, exec .body s = .next t ∧
    WroteBytes (List.replicate 8 0x00#8 ++ [0x64#8, 0x00#8, 0x01#8, 0x00#8]) 5#4 s t

/-- R174: the element, or `UnwrittenInput` where a cell SSID_LEN covers is unwritten. -/
def Obligations.IeSsidWrites : Prop :=
  ∀ s : State, Fits (2 + s.ssidLen.toNat) s →
    (∀ bs, Holds s.ssid s.ssidLen bs →
      ∃ t, exec .ieSsid s = .next t ∧ WroteBytes ([0x00#8, s.ssidLen] ++ bs) 6#4 s t) ∧
    (∀ i, i < s.ssidLen.toNat → Memory.read s.ssid i = none → exec .ieSsid s = .fault .unwrittenInput)

/-- R175: the element, or `UnwrittenInput` where a cell RATES_LEN covers is unwritten. -/
def Obligations.IeRatesWrites : Prop :=
  ∀ s : State, Fits (2 + s.ratesLen.toNat) s →
    (∀ bs, Holds s.rates s.ratesLen bs →
      ∃ t, exec .ieRates s = .next t ∧ WroteBytes ([0x01#8, s.ratesLen] ++ bs) 7#4 s t) ∧
    (∀ i, i < s.ratesLen.toNat → Memory.read s.rates i = none → exec .ieRates s = .fault .unwrittenInput)

/-- R176. -/
def Obligations.IeDsWrites : Prop :=
  ∀ s : State, Fits 3 s → ∃ t, exec .ieDs s = .next t ∧
    WroteBytes [0x03#8, 0x01#8, s.channel] 8#4 s t

/-- R177. -/
def Obligations.FinishPublishes : Prop :=
  ∀ s : State,
    (s.cur = s.len → exec .finish s = .next { s with frameLen := s.len, state := .done, seq := 0#4 }) ∧
    (s.cur ≠ s.len → exec .finish s = .fault .lengthMismatch)

/-- R161: no step writes a byte at or past LEN. A writing step that completes ends at LEN or before and
leaves every cell from LEN on as it was, and one that begins there faults. -/
def Obligations.WritePastLengthFaults : Prop :=
  ∀ s : State, ∀ i ∈ [Instr.caphdr, .rate, .mgmthdr, .body, .ieSsid, .ieRates, .ieDs],
    (s.len.toNat ≤ s.cur.toNat → exec i s = .fault .lengthMismatch) ∧
    (∀ t, exec i s = .next t →
      s.cur.toNat < t.cur.toNat ∧ t.cur.toNat ≤ s.len.toNat ∧ t.len = s.len ∧
        ∀ a, s.len.toNat ≤ a → Memory.read t.frameBuf a = Memory.read s.frameBuf a)

/-! ## The laws of the frame (42_serializer_steps.md section 3) -/

/-- R180, R258: from an accepted BUILD, eight engine steps publish the frame of the configuration. -/
def Obligations.BuildProducesFrame : Prop :=
  ∀ (s b : State) (ssid rates : List Byte),
    s.state ≠ .busy → exec .build s = .next b → b.state = .busy → EngineAlone b →
    Holds s.ssid s.ssidLen ssid → Holds s.rates s.ratesLen rates →
    ∃ t, core.run 8 b = .next t ∧ t.state = .done ∧ t.err = .none ∧ t.drop = false ∧ t.seq = 0#4 ∧
      t.frameLen.toNat = 52 + ssid.length + rates.length ∧ SameConfig s t ∧
      publishedFrame t = (buildFrame s.rateCode s.channel s.apMac ssid rates).map some

/-- R180 under every interleaving: whatever the host and the consumer do between an accepted BUILD and
its FINISH, the published frame is that of the configuration at the BUILD. -/
def Obligations.FrameOfAcceptedBuild : Prop :=
  ∀ (n : Nat) (s b t : State),
    BfsInv s → s.state ≠ .busy → exec .build s = .next b → b.state = .busy → BuildRun n b t →
    ∃ ssid rates, Holds s.ssid s.ssidLen ssid ∧ Holds s.rates s.ratesLen rates ∧
      publishedFrame t = (buildFrame s.rateCode s.channel s.apMac ssid rates).map some

/-- R186: two builds of equal configurations publish equal frames, whatever else differs and however
the other agents' steps fall between theirs. -/
def Obligations.BuildsAreDeterministic : Prop :=
  ∀ (n n' : Nat) (s s' t t' : State),
    s.state = .busy → s'.state = .busy → BfsInv s → BfsInv s' → SameConfig s s' →
    BuildRun n s t → BuildRun n' s' t' →
    publishedFrame t = publishedFrame t'

/-- R181, R111: the length and every field's place in the frame. -/
def Obligations.FrameLayout : Prop :=
  ∀ (rc ch : Byte) (mac : Vector Byte 6) (ssid rates : List Byte),
    ssid.length ≤ 255 → rates.length ≤ 255 →
    let f := buildFrame rc ch mac ssid rates
    f.length = 52 + ssid.length + rates.length ∧
    slice f 0 2 = [0x00#8, 0x00#8] ∧ slice f 2 2 = [0x09#8, 0x00#8] ∧
    slice f 4 4 = [0x04#8, 0x00#8, 0x00#8, 0x00#8] ∧
    slice f 8 1 = [rc &&& 0x7F#8] ∧ slice f 9 2 = [0x80#8, 0x00#8] ∧ slice f 11 2 = [0x00#8, 0x00#8] ∧
    slice f 13 6 = List.replicate 6 0xFF#8 ∧ slice f 19 6 = mac.toList ∧ slice f 25 6 = mac.toList ∧
    slice f 31 2 = [0x00#8, 0x00#8] ∧ slice f 33 8 = List.replicate 8 0x00#8 ∧
    slice f 41 2 = [0x64#8, 0x00#8] ∧ slice f 43 2 = [0x01#8, 0x00#8] ∧
    slice f 45 2 = [0x00#8, BitVec.ofNat 8 ssid.length] ∧ slice f 47 ssid.length = ssid ∧
    slice f (47 + ssid.length) 2 = [0x01#8, BitVec.ofNat 8 rates.length] ∧
    slice f (49 + ssid.length) rates.length = rates ∧
    slice f (49 + ssid.length + rates.length) 3 = [0x03#8, 0x01#8, ch]

/-- R183 and R184, on the bytes of a published frame. -/
def Obligations.MaskingAndByteOrder : Prop :=
  ∀ (rc ch : Byte) (mac : Vector Byte 6) (ssid rates : List Byte),
    let f := buildFrame rc ch mac ssid rates
    (∃ b, f[8]? = some b ∧ b.toNat = rc.toNat % 128) ∧
    (∀ i, i < rates.length → f[49 + ssid.length + i]? = rates[i]?) ∧
    (∃ b c d e : Byte, f[41]? = some b ∧ f[42]? = some c ∧ f[43]? = some d ∧ f[44]? = some e ∧
      b.toNat + 256 * c.toNat = 100 ∧ d.toNat + 256 * e.toNat = 1)

/-- R185: from offset 45 the frame is exactly the three elements, in order. -/
def Obligations.ElementsInOrder : Prop :=
  ∀ (rc ch : Byte) (mac : Vector Byte 6) (ssid rates : List Byte),
    ssid.length ≤ 255 → rates.length ≤ 255 →
    parseElements 3 ((buildFrame rc ch mac ssid rates).drop 45) =
      some [(0x00#8, ssid), (0x01#8, rates), (0x03#8, [ch])]

/-! ## Invariants and whole-machine rules -/

/-- The invariants hold at reset (R46, R47). -/
def Obligations.ResetMeetsInvariant : Prop := BfsInv State.reset

/-- Every step keeps the byte arrays in canonical form and inside their bounds (R31, R33, R41). -/
def Obligations.StepKeepsMemory : Prop :=
  ∀ s t : State, MemInv s → step s = .next t → MemInv t

/-- Every step keeps R46 (a) to (e): from any state that meets the invariants, reachable or not. -/
def Obligations.StepKeepsInvariant : Prop :=
  ∀ s t : State, BfsInv s → step s = .next t → BfsInv t

/-- R205, R181: of the model faults only UnwrittenInput can be reached. -/
def Obligations.OnlyUnwrittenInputReachable : Prop :=
  ∀ (s : State) (r : Fault), BfsInv s → step s = .fault r → r = .unwrittenInput

/-- R78, R145, R224, R240: while a build runs its configuration cannot change but by a reset; only FINISH
and a RST end it; the parameters never change. -/
def Obligations.ConfigFrozenDuringBuild : Prop :=
  ∀ s t : State, step s = .next t →
    t.params = s.params ∧
    (s.state = .busy → (t.state = .busy ∨ t.state = .done) → SameConfig s t) ∧
    (s.state = .busy → t.state = .busy ∨
      (t.state = .done ∧ s.seq = 8#4 ∧ s.cur = s.len ∧ t.frameLen = s.len) ∨
      (t.state = .idle ∧ t.seq = 0#4 ∧ ∃ w rest, s.program = .ht w :: rest ∧ decodeHT w = .ok .rst))

/-- R27: SEQ goes to 1 at an accepted BUILD, forward by one at a step, to 0, and nowhere else. -/
def Obligations.SeqMovesForward : Prop :=
  ∀ s t : State, step s = .next t →
    t.seq = s.seq ∨ t.seq = 0#4 ∨
    (s.state ≠ .busy ∧ t.state = .busy ∧ t.seq = 1#4) ∨
    (s.state = .busy ∧ t.state = .busy ∧ 1 ≤ s.seq.toNat ∧ s.seq.toNat ≤ 7 ∧
      t.seq.toNat = s.seq.toNat + 1)

/-- R177: a published frame stays until a BUILD is accepted, an error is entered or a reset. -/
def Obligations.PublishedFrameStays : Prop :=
  ∀ s t : State, s.state = .done → step s = .next t →
    (t.state = .done ∧ t.frameLen = s.frameLen ∧ t.frameBuf = s.frameBuf ∧
      publishedFrame t = publishedFrame s) ∨
    (t.state ≠ .done ∧ t.frameLen = 0#16)

/-- R80 and R41: FRAME_LEN changes only at an accepted BUILD, an error entry, a RST and FINISH, and
FRAME_BUF only by an engine step that does not publish, and by a RST. -/
def Obligations.FrameChangesAtFourEvents : Prop :=
  ∀ s t : State, step s = .next t →
    (t.frameLen ≠ s.frameLen →
      (s.state = .busy ∧ t.state = .done ∧ t.frameLen = s.len) ∨
      (t.frameLen = 0#16 ∧ ∃ w rest, s.program = .ht w :: rest ∧
        ((decodeHT w = .ok (.wr 0x000#12 0x01#8) ∧ t.state = .busy) ∨ decodeHT w = .ok .rst ∨
          (t.state = .error ∧ ∃ c : Byte, c ≠ 0x00#8 ∧ decodeHT w = .ok (.wr 0x000#12 c))))) ∧
    (t.frameBuf ≠ s.frameBuf →
      (s.state = .busy ∧ t.state = .busy ∧ s.cur.toNat < t.cur.toNat ∧
        ∀ a, a < s.cur.toNat ∨ t.cur.toNat ≤ a → Memory.read t.frameBuf a = Memory.read s.frameBuf a) ∨
      (t.frameBuf = [] ∧ ∃ w rest, s.program = .ht w :: rest ∧ decodeHT w = .ok .rst))

/-- R36, R212: DROP is set by a WR while BUSY alone, and cleared by an accepted BUILD or a RST alone. -/
def Obligations.DropIsSticky : Prop :=
  ∀ s t : State, step s = .next t →
    (s.drop = false → t.drop = true →
      s.state = .busy ∧ ∃ w rest a d, s.program = .ht w :: rest ∧ decodeHT w = .ok (.wr a d)) ∧
    (s.drop = true → t.drop = false →
      ∃ w rest, s.program = .ht w :: rest ∧
        ((decodeHT w = .ok (.wr 0x000#12 0x01#8) ∧ t.state = .busy) ∨ decodeHT w = .ok .rst))

/-! ## The transmit consumer (60_exceptions.md section 7) -/

/-- R229 to R233: each call writes the whole of F; exactly L goes on, for ever where the port always
succeeds; any other count stops the loop for good and reports the error text; a call that never returns
blocks it. That `sent` records the calls that returned, and no other, is the model's choice (log 13). -/
def Obligations.ConsumerSends : Prop :=
  (∀ (s : State) (f : List Byte) (later : List WriteAnswer) (text : List Char),
    s.consumer.phase = .sending f →
    (s.consumer.port = { count := (f.length : Int), errorText := text } :: later →
      consumerStep s = .next { s with consumer :=
        { phase := .sending f, port := later, rest := s.consumer.rest
          sent := s.consumer.sent ++ [f] } }) ∧
    (∀ n : Int, n ≠ (f.length : Int) → s.consumer.port = { count := n, errorText := text } :: later →
      consumerStep s = .next { s with consumer :=
        { phase := .failed f n text, port := later, rest := s.consumer.rest
          sent := s.consumer.sent ++ [f] } }) ∧
    (s.consumer.port = [] → s.consumer.rest = .succeeds → consumerReady s = true ∧
      consumerStep s = .next { s with consumer :=
        { phase := .sending f, port := [], rest := .succeeds, sent := s.consumer.sent ++ [f] } }) ∧
    (s.consumer.port = [] → s.consumer.rest = .blocks → consumerReady s = false)) ∧
  (∀ (s t : State) (f : List Byte) (n : Int) (text : List Char),
    s.consumer.phase = .failed f n text →
    consumerReady s = false ∧ (step s = .next t → t.consumer = s.consumer))

/-- R228, R72: the consumer starts at a STATUS read of DONE, reads FRAME_LEN, and copies the published
frame byte by byte; it changes nothing of the block. The step is the consumer's where it alone can move,
and where the prescribed schedule names it (log 3, 13). -/
def Obligations.ConsumerReadsFrame : Prop :=
  (∀ s : State, programOk s.program = true → consumerReady s = true →
    (s.program = [] → s.state ≠ .busy → step s = consumerStep s) ∧
    (∀ later, s.schedule = .consumer :: later → s.state = .busy ∨ s.program ≠ [] →
      step s = consumerStep { s with schedule := later })) ∧
  (∀ s t : State, consumerStep s = .next t → t = { s with consumer := t.consumer, draws := t.draws }) ∧
  (∀ s : State, s.consumer.phase = .waiting →
    (consumerReady s = true ↔ s.state = .done) ∧
    (s.state = .done →
      consumerStep s = .next { s with consumer := { s.consumer with phase := .readLo } })) ∧
  (∀ s : State, s.consumer.phase = .readLo → ∃ lo : Byte,
    consumerStep s = .next { s with consumer := { s.consumer with phase := .readHi lo } } ∧
    ∀ t : State, t.consumer.phase = .readHi lo → t.frameLen = s.frameLen →
      consumerStep t = .next { t with consumer :=
        { t.consumer with phase := .copying s.frameLen.toNat [] } }) ∧
  (∀ (s : State) (got : List Byte) (v : Byte),
    s.state = .done → s.frameLen.toNat ≤ s.params.bufCap → s.params.bufCap ≤ 3072 →
    s.consumer.phase = .copying s.frameLen.toNat got →
    (got.length < s.frameLen.toNat → Memory.read s.frameBuf got.length = some v →
      consumerStep s = .next { s with consumer :=
        { s.consumer with phase := .copying s.frameLen.toNat (got ++ [v]) } }) ∧
    (got.length = s.frameLen.toNat →
      consumerStep s = .next { s with consumer := { s.consumer with phase := .sending got } }))
end

