-- ==== Sys2Proof/Laws/State.lean ====
section
/-! SUPPORT. What each named update of the state does to each field: one lemma a field, by rfl. -/

namespace Sys2Proof.Machine

/-! ### State.advance (R74) -/

@[simp] theorem State.advance_params (s : State) : s.advance.params = s.params := rfl
@[simp] theorem State.advance_rateCode (s : State) : s.advance.rateCode = s.rateCode := rfl
@[simp] theorem State.advance_channel (s : State) : s.advance.channel = s.channel := rfl
@[simp] theorem State.advance_apMac (s : State) : s.advance.apMac = s.apMac := rfl
@[simp] theorem State.advance_ssidLen (s : State) : s.advance.ssidLen = s.ssidLen := rfl
@[simp] theorem State.advance_ssid (s : State) : s.advance.ssid = s.ssid := rfl
@[simp] theorem State.advance_ratesLen (s : State) : s.advance.ratesLen = s.ratesLen := rfl
@[simp] theorem State.advance_rates (s : State) : s.advance.rates = s.rates := rfl
@[simp] theorem State.advance_state (s : State) : s.advance.state = s.state := rfl
@[simp] theorem State.advance_drop (s : State) : s.advance.drop = s.drop := rfl
@[simp] theorem State.advance_err (s : State) : s.advance.err = s.err := rfl
@[simp] theorem State.advance_frameLen (s : State) : s.advance.frameLen = s.frameLen := rfl
@[simp] theorem State.advance_seq (s : State) : s.advance.seq = s.seq := rfl
@[simp] theorem State.advance_cur (s : State) : s.advance.cur = s.cur := rfl
@[simp] theorem State.advance_len (s : State) : s.advance.len = s.len := rfl
@[simp] theorem State.advance_frameBuf (s : State) : s.advance.frameBuf = s.frameBuf := rfl
@[simp] theorem State.advance_program (s : State) : s.advance.program = s.program.tail := rfl
@[simp] theorem State.advance_trace (s : State) : s.advance.trace = s.trace := rfl
@[simp] theorem State.advance_draws (s : State) : s.advance.draws = s.draws := rfl
@[simp] theorem State.advance_schedule (s : State) : s.advance.schedule = s.schedule := rfl
@[simp] theorem State.advance_turn (s : State) : s.advance.turn = s.turn := rfl
@[simp] theorem State.advance_waited (s : State) : s.advance.waited = s.waited := rfl
@[simp] theorem State.advance_consumer (s : State) : s.advance.consumer = s.consumer := rfl

/-! ### State.dropWrite (R145) -/

@[simp] theorem State.dropWrite_params (s : State) : s.dropWrite.params = s.params := rfl
@[simp] theorem State.dropWrite_rateCode (s : State) : s.dropWrite.rateCode = s.rateCode := rfl
@[simp] theorem State.dropWrite_channel (s : State) : s.dropWrite.channel = s.channel := rfl
@[simp] theorem State.dropWrite_apMac (s : State) : s.dropWrite.apMac = s.apMac := rfl
@[simp] theorem State.dropWrite_ssidLen (s : State) : s.dropWrite.ssidLen = s.ssidLen := rfl
@[simp] theorem State.dropWrite_ssid (s : State) : s.dropWrite.ssid = s.ssid := rfl
@[simp] theorem State.dropWrite_ratesLen (s : State) : s.dropWrite.ratesLen = s.ratesLen := rfl
@[simp] theorem State.dropWrite_rates (s : State) : s.dropWrite.rates = s.rates := rfl
@[simp] theorem State.dropWrite_state (s : State) : s.dropWrite.state = s.state := rfl
@[simp] theorem State.dropWrite_drop (s : State) : s.dropWrite.drop = true := rfl
@[simp] theorem State.dropWrite_err (s : State) : s.dropWrite.err = s.err := rfl
@[simp] theorem State.dropWrite_frameLen (s : State) : s.dropWrite.frameLen = s.frameLen := rfl
@[simp] theorem State.dropWrite_seq (s : State) : s.dropWrite.seq = s.seq := rfl
@[simp] theorem State.dropWrite_cur (s : State) : s.dropWrite.cur = s.cur := rfl
@[simp] theorem State.dropWrite_len (s : State) : s.dropWrite.len = s.len := rfl
@[simp] theorem State.dropWrite_frameBuf (s : State) : s.dropWrite.frameBuf = s.frameBuf := rfl
@[simp] theorem State.dropWrite_program (s : State) : s.dropWrite.program = s.program := rfl
@[simp] theorem State.dropWrite_trace (s : State) : s.dropWrite.trace = s.trace := rfl
@[simp] theorem State.dropWrite_draws (s : State) : s.dropWrite.draws = s.draws := rfl
@[simp] theorem State.dropWrite_schedule (s : State) : s.dropWrite.schedule = s.schedule := rfl
@[simp] theorem State.dropWrite_turn (s : State) : s.dropWrite.turn = s.turn := rfl
@[simp] theorem State.dropWrite_waited (s : State) : s.dropWrite.waited = s.waited := rfl
@[simp] theorem State.dropWrite_consumer (s : State) : s.dropWrite.consumer = s.consumer := rfl

/-! ### State.markBusy (R152) -/

@[simp] theorem State.markBusy_params (s : State) : s.markBusy.params = s.params := rfl
@[simp] theorem State.markBusy_rateCode (s : State) : s.markBusy.rateCode = s.rateCode := rfl
@[simp] theorem State.markBusy_channel (s : State) : s.markBusy.channel = s.channel := rfl
@[simp] theorem State.markBusy_apMac (s : State) : s.markBusy.apMac = s.apMac := rfl
@[simp] theorem State.markBusy_ssidLen (s : State) : s.markBusy.ssidLen = s.ssidLen := rfl
@[simp] theorem State.markBusy_ssid (s : State) : s.markBusy.ssid = s.ssid := rfl
@[simp] theorem State.markBusy_ratesLen (s : State) : s.markBusy.ratesLen = s.ratesLen := rfl
@[simp] theorem State.markBusy_rates (s : State) : s.markBusy.rates = s.rates := rfl
@[simp] theorem State.markBusy_state (s : State) : s.markBusy.state = .busy := rfl
@[simp] theorem State.markBusy_drop (s : State) : s.markBusy.drop = false := rfl
@[simp] theorem State.markBusy_err (s : State) : s.markBusy.err = .none := rfl
@[simp] theorem State.markBusy_frameLen (s : State) : s.markBusy.frameLen = s.frameLen := rfl
@[simp] theorem State.markBusy_seq (s : State) : s.markBusy.seq = s.seq := rfl
@[simp] theorem State.markBusy_cur (s : State) : s.markBusy.cur = s.cur := rfl
@[simp] theorem State.markBusy_len (s : State) : s.markBusy.len = s.len := rfl
@[simp] theorem State.markBusy_frameBuf (s : State) : s.markBusy.frameBuf = s.frameBuf := rfl
@[simp] theorem State.markBusy_program (s : State) : s.markBusy.program = s.program := rfl
@[simp] theorem State.markBusy_trace (s : State) : s.markBusy.trace = s.trace := rfl
@[simp] theorem State.markBusy_draws (s : State) : s.markBusy.draws = s.draws := rfl
@[simp] theorem State.markBusy_schedule (s : State) : s.markBusy.schedule = s.schedule := rfl
@[simp] theorem State.markBusy_turn (s : State) : s.markBusy.turn = s.turn := rfl
@[simp] theorem State.markBusy_waited (s : State) : s.markBusy.waited = s.waited := rfl
@[simp] theorem State.markBusy_consumer (s : State) : s.markBusy.consumer = s.consumer := rfl

/-! ### State.markDone (R177) -/

@[simp] theorem State.markDone_params (s : State) : s.markDone.params = s.params := rfl
@[simp] theorem State.markDone_rateCode (s : State) : s.markDone.rateCode = s.rateCode := rfl
@[simp] theorem State.markDone_channel (s : State) : s.markDone.channel = s.channel := rfl
@[simp] theorem State.markDone_apMac (s : State) : s.markDone.apMac = s.apMac := rfl
@[simp] theorem State.markDone_ssidLen (s : State) : s.markDone.ssidLen = s.ssidLen := rfl
@[simp] theorem State.markDone_ssid (s : State) : s.markDone.ssid = s.ssid := rfl
@[simp] theorem State.markDone_ratesLen (s : State) : s.markDone.ratesLen = s.ratesLen := rfl
@[simp] theorem State.markDone_rates (s : State) : s.markDone.rates = s.rates := rfl
@[simp] theorem State.markDone_state (s : State) : s.markDone.state = .done := rfl
@[simp] theorem State.markDone_drop (s : State) : s.markDone.drop = s.drop := rfl
@[simp] theorem State.markDone_err (s : State) : s.markDone.err = s.err := rfl
@[simp] theorem State.markDone_frameLen (s : State) : s.markDone.frameLen = s.frameLen := rfl
@[simp] theorem State.markDone_seq (s : State) : s.markDone.seq = s.seq := rfl
@[simp] theorem State.markDone_cur (s : State) : s.markDone.cur = s.cur := rfl
@[simp] theorem State.markDone_len (s : State) : s.markDone.len = s.len := rfl
@[simp] theorem State.markDone_frameBuf (s : State) : s.markDone.frameBuf = s.frameBuf := rfl
@[simp] theorem State.markDone_program (s : State) : s.markDone.program = s.program := rfl
@[simp] theorem State.markDone_trace (s : State) : s.markDone.trace = s.trace := rfl
@[simp] theorem State.markDone_draws (s : State) : s.markDone.draws = s.draws := rfl
@[simp] theorem State.markDone_schedule (s : State) : s.markDone.schedule = s.schedule := rfl
@[simp] theorem State.markDone_turn (s : State) : s.markDone.turn = s.turn := rfl
@[simp] theorem State.markDone_waited (s : State) : s.markDone.waited = s.waited := rfl
@[simp] theorem State.markDone_consumer (s : State) : s.markDone.consumer = s.consumer := rfl

/-! ### State.markError (R206) -/

@[simp] theorem State.markError_params (c : ErrCode) (s : State) : (s.markError c).params = s.params := rfl
@[simp] theorem State.markError_rateCode (c : ErrCode) (s : State) : (s.markError c).rateCode = s.rateCode := rfl
@[simp] theorem State.markError_channel (c : ErrCode) (s : State) : (s.markError c).channel = s.channel := rfl
@[simp] theorem State.markError_apMac (c : ErrCode) (s : State) : (s.markError c).apMac = s.apMac := rfl
@[simp] theorem State.markError_ssidLen (c : ErrCode) (s : State) : (s.markError c).ssidLen = s.ssidLen := rfl
@[simp] theorem State.markError_ssid (c : ErrCode) (s : State) : (s.markError c).ssid = s.ssid := rfl
@[simp] theorem State.markError_ratesLen (c : ErrCode) (s : State) : (s.markError c).ratesLen = s.ratesLen := rfl
@[simp] theorem State.markError_rates (c : ErrCode) (s : State) : (s.markError c).rates = s.rates := rfl
@[simp] theorem State.markError_state (c : ErrCode) (s : State) : (s.markError c).state = .error := rfl
@[simp] theorem State.markError_drop (c : ErrCode) (s : State) : (s.markError c).drop = s.drop := rfl
@[simp] theorem State.markError_err (c : ErrCode) (s : State) : (s.markError c).err = c := rfl
@[simp] theorem State.markError_frameLen (c : ErrCode) (s : State) : (s.markError c).frameLen = s.frameLen := rfl
@[simp] theorem State.markError_seq (c : ErrCode) (s : State) : (s.markError c).seq = s.seq := rfl
@[simp] theorem State.markError_cur (c : ErrCode) (s : State) : (s.markError c).cur = s.cur := rfl
@[simp] theorem State.markError_len (c : ErrCode) (s : State) : (s.markError c).len = s.len := rfl
@[simp] theorem State.markError_frameBuf (c : ErrCode) (s : State) : (s.markError c).frameBuf = s.frameBuf := rfl
@[simp] theorem State.markError_program (c : ErrCode) (s : State) : (s.markError c).program = s.program := rfl
@[simp] theorem State.markError_trace (c : ErrCode) (s : State) : (s.markError c).trace = s.trace := rfl
@[simp] theorem State.markError_draws (c : ErrCode) (s : State) : (s.markError c).draws = s.draws := rfl
@[simp] theorem State.markError_schedule (c : ErrCode) (s : State) : (s.markError c).schedule = s.schedule := rfl
@[simp] theorem State.markError_turn (c : ErrCode) (s : State) : (s.markError c).turn = s.turn := rfl
@[simp] theorem State.markError_waited (c : ErrCode) (s : State) : (s.markError c).waited = s.waited := rfl
@[simp] theorem State.markError_consumer (c : ErrCode) (s : State) : (s.markError c).consumer = s.consumer := rfl

/-! ### State.record (R140) -/

@[simp] theorem State.record_params (v : Byte) (s : State) : (s.record v).params = s.params := rfl
@[simp] theorem State.record_rateCode (v : Byte) (s : State) : (s.record v).rateCode = s.rateCode := rfl
@[simp] theorem State.record_channel (v : Byte) (s : State) : (s.record v).channel = s.channel := rfl
@[simp] theorem State.record_apMac (v : Byte) (s : State) : (s.record v).apMac = s.apMac := rfl
@[simp] theorem State.record_ssidLen (v : Byte) (s : State) : (s.record v).ssidLen = s.ssidLen := rfl
@[simp] theorem State.record_ssid (v : Byte) (s : State) : (s.record v).ssid = s.ssid := rfl
@[simp] theorem State.record_ratesLen (v : Byte) (s : State) : (s.record v).ratesLen = s.ratesLen := rfl
@[simp] theorem State.record_rates (v : Byte) (s : State) : (s.record v).rates = s.rates := rfl
@[simp] theorem State.record_state (v : Byte) (s : State) : (s.record v).state = s.state := rfl
@[simp] theorem State.record_drop (v : Byte) (s : State) : (s.record v).drop = s.drop := rfl
@[simp] theorem State.record_err (v : Byte) (s : State) : (s.record v).err = s.err := rfl
@[simp] theorem State.record_frameLen (v : Byte) (s : State) : (s.record v).frameLen = s.frameLen := rfl
@[simp] theorem State.record_seq (v : Byte) (s : State) : (s.record v).seq = s.seq := rfl
@[simp] theorem State.record_cur (v : Byte) (s : State) : (s.record v).cur = s.cur := rfl
@[simp] theorem State.record_len (v : Byte) (s : State) : (s.record v).len = s.len := rfl
@[simp] theorem State.record_frameBuf (v : Byte) (s : State) : (s.record v).frameBuf = s.frameBuf := rfl
@[simp] theorem State.record_program (v : Byte) (s : State) : (s.record v).program = s.program := rfl
@[simp] theorem State.record_trace (v : Byte) (s : State) : (s.record v).trace = s.trace ++ [v] := rfl
@[simp] theorem State.record_draws (v : Byte) (s : State) : (s.record v).draws = s.draws := rfl
@[simp] theorem State.record_schedule (v : Byte) (s : State) : (s.record v).schedule = s.schedule := rfl
@[simp] theorem State.record_turn (v : Byte) (s : State) : (s.record v).turn = s.turn := rfl
@[simp] theorem State.record_waited (v : Byte) (s : State) : (s.record v).waited = s.waited := rfl
@[simp] theorem State.record_consumer (v : Byte) (s : State) : (s.record v).consumer = s.consumer := rfl

/-! ### State.setSeq (R14) -/

@[simp] theorem State.setSeq_params (q : StepCode) (s : State) : (s.setSeq q).params = s.params := rfl
@[simp] theorem State.setSeq_rateCode (q : StepCode) (s : State) : (s.setSeq q).rateCode = s.rateCode := rfl
@[simp] theorem State.setSeq_channel (q : StepCode) (s : State) : (s.setSeq q).channel = s.channel := rfl
@[simp] theorem State.setSeq_apMac (q : StepCode) (s : State) : (s.setSeq q).apMac = s.apMac := rfl
@[simp] theorem State.setSeq_ssidLen (q : StepCode) (s : State) : (s.setSeq q).ssidLen = s.ssidLen := rfl
@[simp] theorem State.setSeq_ssid (q : StepCode) (s : State) : (s.setSeq q).ssid = s.ssid := rfl
@[simp] theorem State.setSeq_ratesLen (q : StepCode) (s : State) : (s.setSeq q).ratesLen = s.ratesLen := rfl
@[simp] theorem State.setSeq_rates (q : StepCode) (s : State) : (s.setSeq q).rates = s.rates := rfl
@[simp] theorem State.setSeq_state (q : StepCode) (s : State) : (s.setSeq q).state = s.state := rfl
@[simp] theorem State.setSeq_drop (q : StepCode) (s : State) : (s.setSeq q).drop = s.drop := rfl
@[simp] theorem State.setSeq_err (q : StepCode) (s : State) : (s.setSeq q).err = s.err := rfl
@[simp] theorem State.setSeq_frameLen (q : StepCode) (s : State) : (s.setSeq q).frameLen = s.frameLen := rfl
@[simp] theorem State.setSeq_seq (q : StepCode) (s : State) : (s.setSeq q).seq = q := rfl
@[simp] theorem State.setSeq_cur (q : StepCode) (s : State) : (s.setSeq q).cur = s.cur := rfl
@[simp] theorem State.setSeq_len (q : StepCode) (s : State) : (s.setSeq q).len = s.len := rfl
@[simp] theorem State.setSeq_frameBuf (q : StepCode) (s : State) : (s.setSeq q).frameBuf = s.frameBuf := rfl
@[simp] theorem State.setSeq_program (q : StepCode) (s : State) : (s.setSeq q).program = s.program := rfl
@[simp] theorem State.setSeq_trace (q : StepCode) (s : State) : (s.setSeq q).trace = s.trace := rfl
@[simp] theorem State.setSeq_draws (q : StepCode) (s : State) : (s.setSeq q).draws = s.draws := rfl
@[simp] theorem State.setSeq_schedule (q : StepCode) (s : State) : (s.setSeq q).schedule = s.schedule := rfl
@[simp] theorem State.setSeq_turn (q : StepCode) (s : State) : (s.setSeq q).turn = s.turn := rfl
@[simp] theorem State.setSeq_waited (q : StepCode) (s : State) : (s.setSeq q).waited = s.waited := rfl
@[simp] theorem State.setSeq_consumer (q : StepCode) (s : State) : (s.setSeq q).consumer = s.consumer := rfl

/-! ### State.pushByte (R161) -/

@[simp] theorem State.pushByte_params (v : Byte) (s : State) : (s.pushByte v).params = s.params := rfl
@[simp] theorem State.pushByte_rateCode (v : Byte) (s : State) : (s.pushByte v).rateCode = s.rateCode := rfl
@[simp] theorem State.pushByte_channel (v : Byte) (s : State) : (s.pushByte v).channel = s.channel := rfl
@[simp] theorem State.pushByte_apMac (v : Byte) (s : State) : (s.pushByte v).apMac = s.apMac := rfl
@[simp] theorem State.pushByte_ssidLen (v : Byte) (s : State) : (s.pushByte v).ssidLen = s.ssidLen := rfl
@[simp] theorem State.pushByte_ssid (v : Byte) (s : State) : (s.pushByte v).ssid = s.ssid := rfl
@[simp] theorem State.pushByte_ratesLen (v : Byte) (s : State) : (s.pushByte v).ratesLen = s.ratesLen := rfl
@[simp] theorem State.pushByte_rates (v : Byte) (s : State) : (s.pushByte v).rates = s.rates := rfl
@[simp] theorem State.pushByte_state (v : Byte) (s : State) : (s.pushByte v).state = s.state := rfl
@[simp] theorem State.pushByte_drop (v : Byte) (s : State) : (s.pushByte v).drop = s.drop := rfl
@[simp] theorem State.pushByte_err (v : Byte) (s : State) : (s.pushByte v).err = s.err := rfl
@[simp] theorem State.pushByte_frameLen (v : Byte) (s : State) : (s.pushByte v).frameLen = s.frameLen := rfl
@[simp] theorem State.pushByte_seq (v : Byte) (s : State) : (s.pushByte v).seq = s.seq := rfl
@[simp] theorem State.pushByte_cur (v : Byte) (s : State) : (s.pushByte v).cur = s.cur + 1#16 := rfl
@[simp] theorem State.pushByte_len (v : Byte) (s : State) : (s.pushByte v).len = s.len := rfl
@[simp] theorem State.pushByte_frameBuf (v : Byte) (s : State) : (s.pushByte v).frameBuf = Memory.write s.frameBuf s.cur.toNat v := rfl
@[simp] theorem State.pushByte_program (v : Byte) (s : State) : (s.pushByte v).program = s.program := rfl
@[simp] theorem State.pushByte_trace (v : Byte) (s : State) : (s.pushByte v).trace = s.trace := rfl
@[simp] theorem State.pushByte_draws (v : Byte) (s : State) : (s.pushByte v).draws = s.draws := rfl
@[simp] theorem State.pushByte_schedule (v : Byte) (s : State) : (s.pushByte v).schedule = s.schedule := rfl
@[simp] theorem State.pushByte_turn (v : Byte) (s : State) : (s.pushByte v).turn = s.turn := rfl
@[simp] theorem State.pushByte_waited (v : Byte) (s : State) : (s.pushByte v).waited = s.waited := rfl
@[simp] theorem State.pushByte_consumer (v : Byte) (s : State) : (s.pushByte v).consumer = s.consumer := rfl

/-! ### State.setPhase (R228) -/

@[simp] theorem State.setPhase_params (p : ConsumerPhase) (s : State) : (s.setPhase p).params = s.params := rfl
@[simp] theorem State.setPhase_rateCode (p : ConsumerPhase) (s : State) : (s.setPhase p).rateCode = s.rateCode := rfl
@[simp] theorem State.setPhase_channel (p : ConsumerPhase) (s : State) : (s.setPhase p).channel = s.channel := rfl
@[simp] theorem State.setPhase_apMac (p : ConsumerPhase) (s : State) : (s.setPhase p).apMac = s.apMac := rfl
@[simp] theorem State.setPhase_ssidLen (p : ConsumerPhase) (s : State) : (s.setPhase p).ssidLen = s.ssidLen := rfl
@[simp] theorem State.setPhase_ssid (p : ConsumerPhase) (s : State) : (s.setPhase p).ssid = s.ssid := rfl
@[simp] theorem State.setPhase_ratesLen (p : ConsumerPhase) (s : State) : (s.setPhase p).ratesLen = s.ratesLen := rfl
@[simp] theorem State.setPhase_rates (p : ConsumerPhase) (s : State) : (s.setPhase p).rates = s.rates := rfl
@[simp] theorem State.setPhase_state (p : ConsumerPhase) (s : State) : (s.setPhase p).state = s.state := rfl
@[simp] theorem State.setPhase_drop (p : ConsumerPhase) (s : State) : (s.setPhase p).drop = s.drop := rfl
@[simp] theorem State.setPhase_err (p : ConsumerPhase) (s : State) : (s.setPhase p).err = s.err := rfl
@[simp] theorem State.setPhase_frameLen (p : ConsumerPhase) (s : State) : (s.setPhase p).frameLen = s.frameLen := rfl
@[simp] theorem State.setPhase_seq (p : ConsumerPhase) (s : State) : (s.setPhase p).seq = s.seq := rfl
@[simp] theorem State.setPhase_cur (p : ConsumerPhase) (s : State) : (s.setPhase p).cur = s.cur := rfl
@[simp] theorem State.setPhase_len (p : ConsumerPhase) (s : State) : (s.setPhase p).len = s.len := rfl
@[simp] theorem State.setPhase_frameBuf (p : ConsumerPhase) (s : State) : (s.setPhase p).frameBuf = s.frameBuf := rfl
@[simp] theorem State.setPhase_program (p : ConsumerPhase) (s : State) : (s.setPhase p).program = s.program := rfl
@[simp] theorem State.setPhase_trace (p : ConsumerPhase) (s : State) : (s.setPhase p).trace = s.trace := rfl
@[simp] theorem State.setPhase_draws (p : ConsumerPhase) (s : State) : (s.setPhase p).draws = s.draws := rfl
@[simp] theorem State.setPhase_schedule (p : ConsumerPhase) (s : State) : (s.setPhase p).schedule = s.schedule := rfl
@[simp] theorem State.setPhase_turn (p : ConsumerPhase) (s : State) : (s.setPhase p).turn = s.turn := rfl
@[simp] theorem State.setPhase_waited (p : ConsumerPhase) (s : State) : (s.setPhase p).waited = s.waited := rfl
@[simp] theorem State.setPhase_consumer (p : ConsumerPhase) (s : State) : (s.setPhase p).consumer = { s.consumer with phase := p } := rfl

/-! ### raiseError (R206) -/

@[simp] theorem raiseError_params (c : ErrCode) (s : State) : (raiseError c s).params = s.params := rfl
@[simp] theorem raiseError_rateCode (c : ErrCode) (s : State) : (raiseError c s).rateCode = s.rateCode := rfl
@[simp] theorem raiseError_channel (c : ErrCode) (s : State) : (raiseError c s).channel = s.channel := rfl
@[simp] theorem raiseError_apMac (c : ErrCode) (s : State) : (raiseError c s).apMac = s.apMac := rfl
@[simp] theorem raiseError_ssidLen (c : ErrCode) (s : State) : (raiseError c s).ssidLen = s.ssidLen := rfl
@[simp] theorem raiseError_ssid (c : ErrCode) (s : State) : (raiseError c s).ssid = s.ssid := rfl
@[simp] theorem raiseError_ratesLen (c : ErrCode) (s : State) : (raiseError c s).ratesLen = s.ratesLen := rfl
@[simp] theorem raiseError_rates (c : ErrCode) (s : State) : (raiseError c s).rates = s.rates := rfl
@[simp] theorem raiseError_state (c : ErrCode) (s : State) : (raiseError c s).state = .error := rfl
@[simp] theorem raiseError_drop (c : ErrCode) (s : State) : (raiseError c s).drop = s.drop := rfl
@[simp] theorem raiseError_err (c : ErrCode) (s : State) : (raiseError c s).err = c := rfl
@[simp] theorem raiseError_frameLen (c : ErrCode) (s : State) : (raiseError c s).frameLen = 0#16 := rfl
@[simp] theorem raiseError_seq (c : ErrCode) (s : State) : (raiseError c s).seq = 0#4 := rfl
@[simp] theorem raiseError_cur (c : ErrCode) (s : State) : (raiseError c s).cur = s.cur := rfl
@[simp] theorem raiseError_len (c : ErrCode) (s : State) : (raiseError c s).len = s.len := rfl
@[simp] theorem raiseError_frameBuf (c : ErrCode) (s : State) : (raiseError c s).frameBuf = s.frameBuf := rfl
@[simp] theorem raiseError_program (c : ErrCode) (s : State) : (raiseError c s).program = s.program := rfl
@[simp] theorem raiseError_trace (c : ErrCode) (s : State) : (raiseError c s).trace = s.trace := rfl
@[simp] theorem raiseError_draws (c : ErrCode) (s : State) : (raiseError c s).draws = s.draws := rfl
@[simp] theorem raiseError_schedule (c : ErrCode) (s : State) : (raiseError c s).schedule = s.schedule := rfl
@[simp] theorem raiseError_turn (c : ErrCode) (s : State) : (raiseError c s).turn = s.turn := rfl
@[simp] theorem raiseError_waited (c : ErrCode) (s : State) : (raiseError c s).waited = s.waited := rfl
@[simp] theorem raiseError_consumer (c : ErrCode) (s : State) : (raiseError c s).consumer = s.consumer := rfl

/-! ### acceptBuild (R152) -/

@[simp] theorem acceptBuild_params (s : State) : (acceptBuild s).params = s.params := rfl
@[simp] theorem acceptBuild_rateCode (s : State) : (acceptBuild s).rateCode = s.rateCode := rfl
@[simp] theorem acceptBuild_channel (s : State) : (acceptBuild s).channel = s.channel := rfl
@[simp] theorem acceptBuild_apMac (s : State) : (acceptBuild s).apMac = s.apMac := rfl
@[simp] theorem acceptBuild_ssidLen (s : State) : (acceptBuild s).ssidLen = s.ssidLen := rfl
@[simp] theorem acceptBuild_ssid (s : State) : (acceptBuild s).ssid = s.ssid := rfl
@[simp] theorem acceptBuild_ratesLen (s : State) : (acceptBuild s).ratesLen = s.ratesLen := rfl
@[simp] theorem acceptBuild_rates (s : State) : (acceptBuild s).rates = s.rates := rfl
@[simp] theorem acceptBuild_state (s : State) : (acceptBuild s).state = .busy := rfl
@[simp] theorem acceptBuild_drop (s : State) : (acceptBuild s).drop = false := rfl
@[simp] theorem acceptBuild_err (s : State) : (acceptBuild s).err = .none := rfl
@[simp] theorem acceptBuild_frameLen (s : State) : (acceptBuild s).frameLen = 0#16 := rfl
@[simp] theorem acceptBuild_seq (s : State) : (acceptBuild s).seq = 1#4 := rfl
@[simp] theorem acceptBuild_cur (s : State) : (acceptBuild s).cur = 0#16 := rfl
@[simp] theorem acceptBuild_len (s : State) : (acceptBuild s).len = frameLength s := rfl
@[simp] theorem acceptBuild_frameBuf (s : State) : (acceptBuild s).frameBuf = s.frameBuf := rfl
@[simp] theorem acceptBuild_program (s : State) : (acceptBuild s).program = s.program := rfl
@[simp] theorem acceptBuild_trace (s : State) : (acceptBuild s).trace = s.trace := rfl
@[simp] theorem acceptBuild_draws (s : State) : (acceptBuild s).draws = s.draws := rfl
@[simp] theorem acceptBuild_schedule (s : State) : (acceptBuild s).schedule = s.schedule := rfl
@[simp] theorem acceptBuild_turn (s : State) : (acceptBuild s).turn = s.turn := rfl
@[simp] theorem acceptBuild_waited (s : State) : (acceptBuild s).waited = s.waited := rfl
@[simp] theorem acceptBuild_consumer (s : State) : (acceptBuild s).consumer = s.consumer := rfl

/-! ### publish (R177) -/

@[simp] theorem publish_params (s : State) : (publish s).params = s.params := rfl
@[simp] theorem publish_rateCode (s : State) : (publish s).rateCode = s.rateCode := rfl
@[simp] theorem publish_channel (s : State) : (publish s).channel = s.channel := rfl
@[simp] theorem publish_apMac (s : State) : (publish s).apMac = s.apMac := rfl
@[simp] theorem publish_ssidLen (s : State) : (publish s).ssidLen = s.ssidLen := rfl
@[simp] theorem publish_ssid (s : State) : (publish s).ssid = s.ssid := rfl
@[simp] theorem publish_ratesLen (s : State) : (publish s).ratesLen = s.ratesLen := rfl
@[simp] theorem publish_rates (s : State) : (publish s).rates = s.rates := rfl
@[simp] theorem publish_state (s : State) : (publish s).state = .done := rfl
@[simp] theorem publish_drop (s : State) : (publish s).drop = s.drop := rfl
@[simp] theorem publish_err (s : State) : (publish s).err = s.err := rfl
@[simp] theorem publish_frameLen (s : State) : (publish s).frameLen = s.len := rfl
@[simp] theorem publish_seq (s : State) : (publish s).seq = 0#4 := rfl
@[simp] theorem publish_cur (s : State) : (publish s).cur = s.cur := rfl
@[simp] theorem publish_len (s : State) : (publish s).len = s.len := rfl
@[simp] theorem publish_frameBuf (s : State) : (publish s).frameBuf = s.frameBuf := rfl
@[simp] theorem publish_program (s : State) : (publish s).program = s.program := rfl
@[simp] theorem publish_trace (s : State) : (publish s).trace = s.trace := rfl
@[simp] theorem publish_draws (s : State) : (publish s).draws = s.draws := rfl
@[simp] theorem publish_schedule (s : State) : (publish s).schedule = s.schedule := rfl
@[simp] theorem publish_turn (s : State) : (publish s).turn = s.turn := rfl
@[simp] theorem publish_waited (s : State) : (publish s).waited = s.waited := rfl
@[simp] theorem publish_consumer (s : State) : (publish s).consumer = s.consumer := rfl

/-! ### State.resetBlock (R240) -/

@[simp] theorem State.resetBlock_params (s : State) : s.resetBlock.params = s.params := rfl
@[simp] theorem State.resetBlock_rateCode (s : State) : s.resetBlock.rateCode = 0#8 := rfl
@[simp] theorem State.resetBlock_channel (s : State) : s.resetBlock.channel = 0#8 := rfl
@[simp] theorem State.resetBlock_apMac (s : State) : s.resetBlock.apMac = Vector.replicate 6 0#8 := rfl
@[simp] theorem State.resetBlock_ssidLen (s : State) : s.resetBlock.ssidLen = 0#8 := rfl
@[simp] theorem State.resetBlock_ssid (s : State) : s.resetBlock.ssid = [] := rfl
@[simp] theorem State.resetBlock_ratesLen (s : State) : s.resetBlock.ratesLen = 0#8 := rfl
@[simp] theorem State.resetBlock_rates (s : State) : s.resetBlock.rates = [] := rfl
@[simp] theorem State.resetBlock_state (s : State) : s.resetBlock.state = .idle := rfl
@[simp] theorem State.resetBlock_drop (s : State) : s.resetBlock.drop = false := rfl
@[simp] theorem State.resetBlock_err (s : State) : s.resetBlock.err = .none := rfl
@[simp] theorem State.resetBlock_frameLen (s : State) : s.resetBlock.frameLen = 0#16 := rfl
@[simp] theorem State.resetBlock_seq (s : State) : s.resetBlock.seq = 0#4 := rfl
@[simp] theorem State.resetBlock_cur (s : State) : s.resetBlock.cur = 0#16 := rfl
@[simp] theorem State.resetBlock_len (s : State) : s.resetBlock.len = 0#16 := rfl
@[simp] theorem State.resetBlock_frameBuf (s : State) : s.resetBlock.frameBuf = [] := rfl
@[simp] theorem State.resetBlock_program (s : State) : s.resetBlock.program = s.program := rfl
@[simp] theorem State.resetBlock_trace (s : State) : s.resetBlock.trace = s.trace := rfl
@[simp] theorem State.resetBlock_draws (s : State) : s.resetBlock.draws = s.draws := rfl
@[simp] theorem State.resetBlock_schedule (s : State) : s.resetBlock.schedule = s.schedule := rfl
@[simp] theorem State.resetBlock_turn (s : State) : s.resetBlock.turn = s.turn := rfl
@[simp] theorem State.resetBlock_waited (s : State) : s.resetBlock.waited = s.waited := rfl
@[simp] theorem State.resetBlock_consumer (s : State) : s.resetBlock.consumer = s.consumer := rfl

/-! ### State.load (R103) -/

@[simp] theorem State.load_params (p : List HostItem) (s : State) : (s.load p).params = s.params := rfl
@[simp] theorem State.load_rateCode (p : List HostItem) (s : State) : (s.load p).rateCode = s.rateCode := rfl
@[simp] theorem State.load_channel (p : List HostItem) (s : State) : (s.load p).channel = s.channel := rfl
@[simp] theorem State.load_apMac (p : List HostItem) (s : State) : (s.load p).apMac = s.apMac := rfl
@[simp] theorem State.load_ssidLen (p : List HostItem) (s : State) : (s.load p).ssidLen = s.ssidLen := rfl
@[simp] theorem State.load_ssid (p : List HostItem) (s : State) : (s.load p).ssid = s.ssid := rfl
@[simp] theorem State.load_ratesLen (p : List HostItem) (s : State) : (s.load p).ratesLen = s.ratesLen := rfl
@[simp] theorem State.load_rates (p : List HostItem) (s : State) : (s.load p).rates = s.rates := rfl
@[simp] theorem State.load_state (p : List HostItem) (s : State) : (s.load p).state = s.state := rfl
@[simp] theorem State.load_drop (p : List HostItem) (s : State) : (s.load p).drop = s.drop := rfl
@[simp] theorem State.load_err (p : List HostItem) (s : State) : (s.load p).err = s.err := rfl
@[simp] theorem State.load_frameLen (p : List HostItem) (s : State) : (s.load p).frameLen = s.frameLen := rfl
@[simp] theorem State.load_seq (p : List HostItem) (s : State) : (s.load p).seq = s.seq := rfl
@[simp] theorem State.load_cur (p : List HostItem) (s : State) : (s.load p).cur = s.cur := rfl
@[simp] theorem State.load_len (p : List HostItem) (s : State) : (s.load p).len = s.len := rfl
@[simp] theorem State.load_frameBuf (p : List HostItem) (s : State) : (s.load p).frameBuf = s.frameBuf := rfl
@[simp] theorem State.load_program (p : List HostItem) (s : State) : (s.load p).program = p := rfl
@[simp] theorem State.load_trace (p : List HostItem) (s : State) : (s.load p).trace = s.trace := rfl
@[simp] theorem State.load_draws (p : List HostItem) (s : State) : (s.load p).draws = s.draws := rfl
@[simp] theorem State.load_schedule (p : List HostItem) (s : State) : (s.load p).schedule = s.schedule := rfl
@[simp] theorem State.load_turn (p : List HostItem) (s : State) : (s.load p).turn = s.turn := rfl
@[simp] theorem State.load_waited (p : List HostItem) (s : State) : (s.load p).waited = s.waited := rfl
@[simp] theorem State.load_consumer (p : List HostItem) (s : State) : (s.load p).consumer = s.consumer := rfl

end Sys2Proof.Machine
end

