-- ==== Sys2Proof/Laws/Ops.lean ====
section
/-! SUPPORT. What the shared operations can do: the engine's primitives (42_serializer_steps.md R161 to
R165), the register space's reads and writes (40_host_transactions.md R140, R142), BUILD. -/

namespace Sys2Proof.Machine

open Sys2Proof.Config

/-! ## Sequencing -/

@[simp] theorem andThen_next (s : State) (k : State → Result) : andThen (.next s) k = k s := rfl

@[simp] theorem andThen_fault (r : Fault) (k : State → Result) : andThen (.fault r) k = .fault r := rfl

@[simp] theorem andThen_refused (r : Refusal) (k : State → Result) :
    andThen (.refused r) k = .refused r := rfl

/-- A sequence answers a next state exactly when both parts do. -/
theorem andThen_eq_next {o : Result} {k : State → Result} {t : State} :
    andThen o k = .next t ↔ ∃ s, o = .next s ∧ k s = .next t := by
  cases o <;> simp [andThen]

/-! ## Put8 and PutBytes -/

/-- The state after a byte list has been written from CUR on. -/
def pushAll (bs : List Byte) (s : State) : State := bs.foldl (fun t b => t.pushByte b) s

@[simp] theorem pushAll_nil (s : State) : pushAll [] s = s := rfl

@[simp] theorem pushAll_cons (b : Byte) (bs : List Byte) (s : State) :
    pushAll (b :: bs) s = pushAll bs (s.pushByte b) := rfl

theorem pushAll_append (bs cs : List Byte) (s : State) :
    pushAll (bs ++ cs) s = pushAll cs (pushAll bs s) := by simp [pushAll]

/-- CUR does not wrap below 65535 (R28). -/
theorem cur_succ {c : Half} {n : Nat} (h : c.toNat + 1 ≤ n) (hn : n ≤ 65535) :
    (c + 1#16).toNat = c.toNat + 1 := by
  rw [BitVec.toNat_add]; simp; omega

/-- Writing bytes changes CUR and FRAME_BUF alone. -/
theorem pushAll_frame (bs : List Byte) (s : State) :
    pushAll bs s = { s with cur := (pushAll bs s).cur, frameBuf := (pushAll bs s).frameBuf } := by
  induction bs generalizing s with
  | nil => rfl
  | cons b bs ih => rw [pushAll_cons]; exact ih _

theorem pushAll_cur (bs : List Byte) (s : State) (h : s.cur.toNat + bs.length ≤ 65535) :
    (pushAll bs s).cur.toNat = s.cur.toNat + bs.length := by
  induction bs generalizing s with
  | nil => simp
  | cons b bs ih =>
    have hc : (s.cur + 1#16).toNat = s.cur.toNat + 1 :=
      cur_succ (n := 65535) (by simp at h; omega) (Nat.le_refl _)
    rw [pushAll_cons, ih _ (by simp [hc] at h ⊢; omega)]
    simp [hc]; omega

/-- The cells after writing: the bytes from the old CUR on, the old cells elsewhere. -/
theorem pushAll_read (bs : List Byte) (s : State) (h : s.cur.toNat + bs.length ≤ 65535) (a : Nat) :
    Memory.read (pushAll bs s).frameBuf a =
      if s.cur.toNat ≤ a ∧ a < s.cur.toNat + bs.length then bs[a - s.cur.toNat]?
      else Memory.read s.frameBuf a := by
  induction bs generalizing s with
  | nil => simp
  | cons b bs ih =>
    have hc : (s.cur + 1#16).toNat = s.cur.toNat + 1 :=
      cur_succ (n := 65535) (by simp at h; omega) (Nat.le_refl _)
    rw [pushAll_cons, ih _ (by simp [hc] at h ⊢; omega)]
    simp only [State.pushByte_cur, hc, State.pushByte_frameBuf, Memory.read_write, List.length_cons]
    by_cases h1 : a = s.cur.toNat
    · subst h1; simp
    · by_cases h2 : s.cur.toNat + 1 ≤ a
      · obtain ⟨k, rfl⟩ : ∃ k, a = s.cur.toNat + 1 + k := ⟨a - (s.cur.toNat + 1), by omega⟩
        have e1 : s.cur.toNat + 1 + k - (s.cur.toNat + 1) = k := by omega
        have e2 : s.cur.toNat + 1 + k - s.cur.toNat = k + 1 := by omega
        simp only [e1, e2, List.getElem?_cons_succ, h1, if_false]
        congr 1
        simp only [eq_iff_iff]; omega
      · rw [if_neg (by omega), if_neg h1, if_neg (by omega)]

theorem pushAll_bound (bs : List Byte) {s : State} {n : Nat} (h : ∀ c ∈ s.frameBuf, c.1 < n)
    (hn : s.cur.toNat + bs.length ≤ n) (hs : s.cur.toNat + bs.length ≤ 65535) :
    ∀ c ∈ (pushAll bs s).frameBuf, c.1 < n := by
  induction bs generalizing s with
  | nil => exact h
  | cons b bs ih =>
    have hc : (s.cur + 1#16).toNat = s.cur.toNat + 1 :=
      cur_succ (n := 65535) (by simp at hs; omega) (Nat.le_refl _)
    simp only [List.length_cons] at hn hs
    exact ih (Memory.write_bound h (by omega) b) (by simp [hc]; omega) (by simp [hc]; omega)

theorem pushAll_wf (bs : List Byte) {s : State} (h : Memory.wf s.frameBuf) :
    Memory.wf (pushAll bs s).frameBuf := by
  induction bs generalizing s with
  | nil => exact h
  | cons b bs ih => exact ih (Memory.write_wf h _ _)

/-- Put8 answers a next state exactly below LEN and inside FRAME_BUF (R161). -/
theorem put8_eq_next {v : Byte} {s t : State} :
    put8 v s = .next t ↔ Fits 1 s ∧ t = s.pushByte v := by
  simp only [put8, Fits]
  split
  · simp; omega
  · split
    · simp; omega
    · simp only [Host.Outcome.next.injEq]
      constructor
      · rintro rfl; exact ⟨by omega, rfl⟩
      · rintro ⟨-, rfl⟩; rfl

/-- Put8 at or past LEN faults (R161). -/
theorem put8_past {v : Byte} {s : State} (h : s.len.toNat ≤ s.cur.toNat) :
    put8 v s = .fault .lengthMismatch := by simp [put8, h]

theorem Fits.pushByte {n : Nat} {s : State} (h : Fits (n + 1) s) (b : Byte) : Fits n (s.pushByte b) := by
  have hl := s.len.isLt
  have hc := cur_succ (c := s.cur) (n := 65535) (by simp only [Fits] at h; omega) (Nat.le_refl _)
  simp only [Fits, State.pushByte_cur, State.pushByte_len, State.pushByte_params, hc] at h ⊢
  omega

theorem Fits.of_pushByte {n : Nat} {s : State} {b : Byte} (h1 : Fits 1 s) (h : Fits n (s.pushByte b)) :
    Fits (n + 1) s := by
  have hl := s.len.isLt
  have hc := cur_succ (c := s.cur) (n := 65535) (by simp only [Fits] at h1; omega) (Nat.le_refl _)
  simp only [Fits, State.pushByte_cur, State.pushByte_len, State.pushByte_params, hc] at h ⊢
  omega

/-- PutBytes writes a list that fits (R162). -/
theorem putBytes_fits {bs : List Byte} {s : State} (h : Fits bs.length s) :
    putBytes bs s = .next (pushAll bs s) := by
  induction bs generalizing s with
  | nil => rfl
  | cons b bs ih =>
    have h1 : put8 b s = .next (s.pushByte b) :=
      put8_eq_next.mpr ⟨by simp only [Fits, List.length_cons] at h ⊢; omega, rfl⟩
    simp only [putBytes, h1, andThen_next, pushAll_cons]
    exact ih (Fits.pushByte h b)

/-- All PutBytes can do when it answers a next state (R162). -/
theorem putBytes_next {bs : List Byte} {s t : State} (h : putBytes bs s = .next t) :
    t = pushAll bs s ∧ (bs ≠ [] → Fits bs.length s) := by
  induction bs generalizing s with
  | nil => simp only [putBytes, Host.Outcome.next.injEq] at h; exact ⟨h.symm, by simp⟩
  | cons b bs ih =>
    obtain ⟨u, hu, hk⟩ := andThen_eq_next.mp h
    obtain ⟨hf, rfl⟩ := put8_eq_next.mp hu
    obtain ⟨rfl, hb⟩ := ih hk
    refine ⟨rfl, fun _ => ?_⟩
    cases bs with
    | nil => exact hf
    | cons c cs => exact Fits.of_pushByte hf (hb (by simp))

/-! ## EmitTLV -/

/-- The payload loop writes bytes that are all there and fit (R165). -/
theorem emitPayload_fits {p : Nat → Option Byte} {bs : List Byte} {i : Nat} {s : State}
    (hp : ∀ k, k < bs.length → p (i + k) = bs[k]?) (h : Fits bs.length s) :
    emitPayload p i bs.length s = .next (pushAll bs s) := by
  induction bs generalizing i s with
  | nil => rfl
  | cons b bs ih =>
    have h0 : p i = some b := by simpa using hp 0 (by simp)
    have h1 : put8 b s = .next (s.pushByte b) :=
      put8_eq_next.mpr ⟨by simp only [Fits, List.length_cons] at h ⊢; omega, rfl⟩
    simp only [List.length_cons, emitPayload, h0, h1, andThen_next, pushAll_cons]
    refine ih (fun k hk => ?_) (Fits.pushByte h b)
    have := hp (k + 1) (by simp; omega)
    rwa [List.getElem?_cons_succ, show i + (k + 1) = i + 1 + k by omega] at this

/-- All the payload loop can do when it answers a next state (R164, R165). -/
theorem emitPayload_next {p : Nat → Option Byte} {n i : Nat} {s t : State}
    (h : emitPayload p i n s = .next t) :
    ∃ bs : List Byte, bs.length = n ∧ (∀ k, k < n → p (i + k) = bs[k]?) ∧ t = pushAll bs s ∧
      (bs ≠ [] → Fits bs.length s) := by
  induction n generalizing i s with
  | zero =>
    simp only [emitPayload, Host.Outcome.next.injEq] at h
    exact ⟨[], rfl, by simp, h.symm, by simp⟩
  | succ n ih =>
    simp only [emitPayload] at h
    split at h
    · simp at h
    · rename_i v hv
      obtain ⟨u, hu, hk⟩ := andThen_eq_next.mp h
      obtain ⟨hf, rfl⟩ := put8_eq_next.mp hu
      obtain ⟨bs, hl, hp, rfl, hb⟩ := ih hk
      refine ⟨v :: bs, by simp [hl], fun k hk => ?_, rfl, fun _ => ?_⟩
      · cases k with
        | zero => simpa using hv
        | succ k =>
          rw [List.getElem?_cons_succ, ← hp k (by omega), show i + (k + 1) = i + 1 + k by omega]
      · cases bs with
        | nil => exact hf
        | cons c cs => exact Fits.of_pushByte hf (hb (by simp))

/-- The payload loop stops with `UnwrittenInput` at the first cell that is not there, where the bytes
before it fit (R164). -/
theorem emitPayload_unwritten {p : Nat → Option Byte} {n i j : Nat} {s : State} (hj : j < n)
    (h : Fits n s) (hp : ∀ k, k < j → p (i + k) ≠ none) (hn : p (i + j) = none) :
    emitPayload p i n s = .fault .unwrittenInput := by
  induction n generalizing i j s with
  | zero => omega
  | succ n ih =>
    simp only [emitPayload]
    cases j with
    | zero => simp [show p i = none from by simpa using hn]
    | succ j =>
      obtain ⟨v, hv⟩ := Option.ne_none_iff_exists'.mp (hp 0 (by omega))
      have h1 : put8 v s = .next (s.pushByte v) :=
        put8_eq_next.mpr ⟨by simp only [Fits] at h ⊢; omega, rfl⟩
      simp only [Nat.add_zero] at hv
      simp only [hv, h1, andThen_next]
      refine ih (j := j) (by omega) (Fits.pushByte h v) (fun k hk => ?_) ?_
      · rw [show i + 1 + k = i + (k + 1) by omega]; exact hp (k + 1) (by omega)
      · rwa [show i + 1 + j = i + (j + 1) by omega]

/-- EmitTLV writes an element whose payload is all there and fits (R165). -/
theorem emitTLV_fits {id n : Byte} {p : Nat → Option Byte} {bs : List Byte} {s : State}
    (hn : bs.length = n.toNat) (hp : ∀ k, k < bs.length → p k = bs[k]?) (h : Fits (bs.length + 2) s) :
    emitTLV id n p s = .next (pushAll (id :: n :: bs) s) := by
  have h1 : put8 id s = .next (s.pushByte id) :=
    put8_eq_next.mpr ⟨by simp only [Fits] at h ⊢; omega, rfl⟩
  have hf := Fits.pushByte (n := bs.length + 1) h id
  have h2 : put8 n (s.pushByte id) = .next ((s.pushByte id).pushByte n) :=
    put8_eq_next.mpr ⟨by simp only [Fits] at hf ⊢; omega, rfl⟩
  simp only [emitTLV, h1, h2, andThen_next, pushAll_cons, ← hn]
  exact emitPayload_fits (by simpa using hp) (Fits.pushByte hf n)

/-- All EmitTLV can do when it answers a next state (R164, R165). -/
theorem emitTLV_next {id n : Byte} {p : Nat → Option Byte} {s t : State}
    (h : emitTLV id n p s = .next t) :
    ∃ bs : List Byte, bs.length = n.toNat ∧ (∀ k, k < n.toNat → p k = bs[k]?) ∧
      t = pushAll (id :: n :: bs) s ∧ Fits (bs.length + 2) s := by
  obtain ⟨u, hu, h⟩ := andThen_eq_next.mp h
  obtain ⟨w, hw, h⟩ := andThen_eq_next.mp h
  obtain ⟨f1, rfl⟩ := put8_eq_next.mp hu
  obtain ⟨f2, rfl⟩ := put8_eq_next.mp hw
  obtain ⟨bs, hl, hp, rfl, hb⟩ := emitPayload_next h
  refine ⟨bs, hl, by simpa using hp, rfl, Fits.of_pushByte (n := bs.length + 1) (b := id) f1 ?_⟩
  cases bs with
  | nil => exact f2
  | cons c cs => exact Fits.of_pushByte f2 (hb (by simp))

/-! ## The steps -/

/-- What writing bytes and naming the next step leaves. -/
theorem wroteBytes_pushAll {bs : List Byte} {s : State} (h : s.cur.toNat + bs.length ≤ 65535)
    (q : StepCode) : WroteBytes bs q s ((pushAll bs s).setSeq q) := by
  refine ⟨?_, ?_, fun a h1 h2 => ?_, fun a ha => ?_⟩
  · conv_lhs => rw [pushAll_frame]
    rfl
  · simpa using pushAll_cur bs s h
  · simp only [State.setSeq_frameBuf, pushAll_read bs s h]
    rw [if_pos ⟨h1, h2⟩]
  · simp only [State.setSeq_frameBuf, pushAll_read bs s h]
    rw [if_neg (by omega)]

theorem Fits.small {n : Nat} {s : State} (h : Fits n s) : s.cur.toNat + n ≤ 65535 := by
  have := s.len.isLt; simp only [Fits] at h; omega

/-- A step that writes a byte list completes where the list fits (R163). -/
theorem writeStep_fits {bs : List Byte} {q : StepCode} {s : State} (h : Fits bs.length s) :
    ∃ t, writeStep bs q s = .next t ∧ WroteBytes bs q s t :=
  ⟨_, by rw [writeStep, putBytes_fits h, andThen_next], wroteBytes_pushAll h.small q⟩

/-- All a step that writes a byte list can do when it answers a next state (R163). -/
theorem writeStep_next {bs : List Byte} {q : StepCode} {s t : State} (hb : bs ≠ [])
    (h : writeStep bs q s = .next t) : Fits bs.length s ∧ t = (pushAll bs s).setSeq q := by
  obtain ⟨u, hu, hk⟩ := andThen_eq_next.mp h
  obtain ⟨rfl, hf⟩ := putBytes_next hu
  simp only [Host.Outcome.next.injEq] at hk
  exact ⟨hf hb, hk.symm⟩

/-- A step that writes an element completes where its payload is there and fits (R163, R165). -/
theorem tlvStep_fits {id n : Byte} {p : Nat → Option Byte} {bs : List Byte} {q : StepCode} {s : State}
    (hn : bs.length = n.toNat) (hp : ∀ k, k < bs.length → p k = bs[k]?) (h : Fits (bs.length + 2) s) :
    ∃ t, tlvStep id n p q s = .next t ∧ WroteBytes (id :: n :: bs) q s t :=
  ⟨_, by rw [tlvStep, emitTLV_fits hn hp h, andThen_next], wroteBytes_pushAll (by simpa using h.small) q⟩

/-- All a step that writes an element can do when it answers a next state (R163, R165). -/
theorem tlvStep_next {id n : Byte} {p : Nat → Option Byte} {q : StepCode} {s t : State}
    (h : tlvStep id n p q s = .next t) :
    ∃ bs : List Byte, bs.length = n.toNat ∧ (∀ k, k < n.toNat → p k = bs[k]?) ∧
      Fits (bs.length + 2) s ∧ t = (pushAll (id :: n :: bs) s).setSeq q := by
  obtain ⟨u, hu, hk⟩ := andThen_eq_next.mp h
  obtain ⟨bs, hl, hp, rfl, hf⟩ := emitTLV_next hu
  simp only [Host.Outcome.next.injEq] at hk
  exact ⟨bs, hl, hp, hf, hk.symm⟩

/-! ## Register space -/

/-- A RD moves on the number of draws at most: it has no side effect (R65, R140). -/
theorem busRead_state (a : Addr) (s : State) :
    (busRead a s).2 = s ∨ (busRead a s).2 = { s with draws := s.draws + 1 } := by
  let P : Byte × State → Prop := fun x => x.2 = s ∨ x.2 = { s with draws := s.draws + 1 }
  have hi : ∀ (c : Prop) [Decidable c] (x y : Byte × State), P x → P y → P (if c then x else y) := by
    intro c _ x y hx hy; split <;> assumption
  have hp : ∀ v, P (v, s) := fun _ => .inl rfl
  have ho : ∀ v, P (orDraw v s) := by
    intro v; cases v
    · exact .inr rfl
    · exact .inl rfl
  show P (busRead a s)
  unfold busRead
  repeat' first | exact hp _ | exact ho _ | apply hi

theorem ofNat12_toNat {n : Nat} (h : n < 4096) : (BitVec.ofNat 12 n).toNat = n := by
  simp [Nat.mod_eq_of_lt h]

/-- A RD of SSID[i] (R140). -/
theorem busRead_ssid {i : Nat} {s : State} (h : i < 255) :
    busRead (BitVec.ofNat 12 (0x100 + i)) s = orDraw (Memory.read s.ssid i) s := by
  have e := ofNat12_toNat (n := 0x100 + i) (by omega)
  generalize BitVec.ofNat 12 (0x100 + i) = a at *
  unfold busRead
  rw [e]
  dsimp only
  repeat (rw [if_neg (by omega)])
  rw [if_pos (by omega), Nat.add_sub_cancel_left]

/-- A RD of RATES[i] (R140). -/
theorem busRead_rates {i : Nat} {s : State} (h : i < 255) :
    busRead (BitVec.ofNat 12 (0x200 + i)) s = orDraw (Memory.read s.rates i) s := by
  have e := ofNat12_toNat (n := 0x200 + i) (by omega)
  generalize BitVec.ofNat 12 (0x200 + i) = a at *
  unfold busRead
  rw [e]
  dsimp only
  repeat (rw [if_neg (by omega)])
  rw [if_pos (by omega), Nat.add_sub_cancel_left]

/-- A RD of FRAME_BUF[i] (R140). -/
theorem busRead_frameBuf {i : Nat} {s : State} (h : i < s.params.bufCap) (hi : i < 3072) :
    busRead (BitVec.ofNat 12 (frameBase + i)) s = orDraw (publishedByte s i) s := by
  have e := ofNat12_toNat (n := frameBase + i) (by unfold frameBase; omega)
  generalize BitVec.ofNat 12 (frameBase + i) = a at *
  unfold busRead
  rw [e]
  unfold frameBase
  dsimp only
  repeat (rw [if_neg (by omega)])
  rw [if_pos (by omega), Nat.add_sub_cancel_left]

/-- A store changes one configuration location at most (R142). -/
theorem store_frame (a : Addr) (d : Byte) (s : State) :
    s.store a d = { s with
      rateCode := (s.store a d).rateCode, channel := (s.store a d).channel
      apMac := (s.store a d).apMac, ssidLen := (s.store a d).ssidLen, ssid := (s.store a d).ssid
      ratesLen := (s.store a d).ratesLen, rates := (s.store a d).rates } := by
  simp only [State.store]
  repeat' split
  all_goals rfl

/-- A store keeps the canonical form of the arrays, and their bounds (R31, R33). -/
theorem store_memInv {a : Addr} {d : Byte} {s : State} (h : MemInv s) : MemInv (s.store a d) := by
  obtain ⟨h1, h2, h3, h4, h5, h6⟩ := h
  simp only [State.store]
  repeat' split
  all_goals constructor <;> first
    | assumption
    | exact Memory.write_wf ‹_› _ _
    | exact Memory.write_bound ‹_› (by omega) _

/-- The three things BUILD can do (R152 to R154). -/
theorem buildCommand_cases (s : State) :
    (s.params.checkChannel = true ∧ s.channel = 0#8 ∧ buildCommand s = raiseError .badChannel s) ∨
    (s.params.bufCap < (frameLength s).toNat ∧ buildCommand s = raiseError .overflow s) ∨
    ((s.params.checkChannel = true → s.channel ≠ 0#8) ∧ (frameLength s).toNat ≤ s.params.bufCap ∧
      buildCommand s = acceptBuild s) := by
  simp only [buildCommand]
  by_cases h1 : s.params.checkChannel = true ∧ s.channel = 0#8
  · exact .inl ⟨h1.1, h1.2, by rw [if_pos h1]⟩
  · rw [if_neg h1]
    by_cases h2 : s.params.bufCap < (frameLength s).toNat
    · exact .inr (.inl ⟨h2, by rw [if_pos h2]⟩)
    · exact .inr (.inr ⟨fun h hc => h1 ⟨h, hc⟩, by omega, by rw [if_neg h2]⟩)

/-- The frame length is the exact sum 52 + SSID_LEN + RATES_LEN (R131). -/
theorem frameLength_toNat (s : State) :
    (frameLength s).toNat = 52 + s.ssidLen.toNat + s.ratesLen.toNat := by
  have h1 := s.ssidLen.isLt
  have h2 := s.ratesLen.isLt
  simp only [frameLength, fixedLen, BitVec.toNat_add, BitVec.toNat_setWidth, BitVec.toNat_ofNat]
  omega

end Sys2Proof.Machine
end

