-- ==== Sys2Proof/Laws/PerInstr.lean ====
section
/-! SUPPORT. Statements made per instruction: each instruction's encoding lies in its row of
spec/opcode_table.json. -/

namespace Sys2Proof.Laws.EncodingInRow

/-- A row's format, match and mask (spec/opcode_table.json; 30_encoding.md R101). -/
inductive Row where
  | ht (mtch mask : HTWord)
  | cmd (mtch mask : Byte)
  | seq (mtch mask : StepCode)

/-- The row of an instruction, copied from spec/opcode_table.json. -/
def row : Instr → Row
  | .wr _ _ => .ht 0x00000000#32 0xF000FF00#32
  | .rd _ => .ht 0x40000000#32 0xF000FFFF#32
  | .rst => .ht 0x80000000#32 0xFFFFFFFF#32
  | .wait => .ht 0xC0000000#32 0xFFFFFFFF#32
  | .nop => .cmd 0x00#8 0xFF#8
  | .build => .cmd 0x01#8 0xFF#8
  | .reservedCmd _ => .cmd 0x00#8 0x00#8
  | .caphdr => .seq 0x1#4 0xF#4
  | .rate => .seq 0x2#4 0xF#4
  | .mgmthdr => .seq 0x3#4 0xF#4
  | .body => .seq 0x4#4 0xF#4
  | .ieSsid => .seq 0x5#4 0xF#4
  | .ieRates => .seq 0x6#4 0xF#4
  | .ieDs => .seq 0x7#4 0xF#4
  | .finish => .seq 0x8#4 0xF#4

/-- A word lies in a row: same format, and its bits under the mask are the match. -/
def Within : Code → Row → Prop
  | .ht w, .ht mtch mask => w &&& mask = mtch
  | .cmd c, .cmd mtch mask => c &&& mask = mtch
  | .seq q, .seq mtch mask => q &&& mask = mtch
  | _, _ => False

/-- The encoding of an instruction lies in its row of the opcode table. -/
def Statement (i : Instr) : Prop := Within (encode i) (row i)

theorem wr (addr : Addr) (data : Byte) : Statement (.wr addr data) := by
  change htWord 0#2 addr data &&& 0xF000FF00#32 = 0x00000000#32
  ext k hk
  simp only [htWord, BitVec.getElem_and, BitVec.getElem_or, BitVec.getElem_shiftLeft,
    BitVec.getElem_setWidth]
  interval_cases k <;> simp

theorem rd (addr : Addr) : Statement (.rd addr) := by
  change htWord 1#2 addr 0#8 &&& 0xF000FFFF#32 = 0x40000000#32
  ext k hk
  simp only [htWord, BitVec.getElem_and, BitVec.getElem_or, BitVec.getElem_shiftLeft,
    BitVec.getElem_setWidth]
  interval_cases k <;> simp

theorem rst : Statement .rst := rfl
theorem wait : Statement .wait := rfl
theorem nop : Statement .nop := rfl
theorem build : Statement .build := rfl
theorem reservedCmd (code : Byte) : Statement (.reservedCmd code) := BitVec.and_zero
theorem caphdr : Statement .caphdr := rfl
theorem rate : Statement .rate := rfl
theorem mgmthdr : Statement .mgmthdr := rfl
theorem body : Statement .body := rfl
theorem ieSsid : Statement .ieSsid := rfl
theorem ieRates : Statement .ieRates := rfl
theorem ieDs : Statement .ieDs := rfl
theorem finish : Statement .finish := rfl

end Sys2Proof.Laws.EncodingInRow
end

