-- ==== Sys2Proof/Laws/Step.lean ====
section
/-! SUPPORT. What a step can do (20_memory.md R73): the inversion of step, of the decoders' answers, of
a WR and of a consumer's step. -/

namespace Sys2Proof.Machine

open Sys2Proof.Config

/-! ## Decoders -/

/-- A word the HT decoder accepts is one of the four host forms (R92). -/
theorem decodeHT_ok {w : HTWord} {i : Instr} (h : decodeHT w = .ok i) :
    (∃ a d, i = .wr a d) ∨ (∃ a, i = .rd a) ∨ i = .rst ∨ i = .wait := by
  simp only [decodeHT] at h
  split at h
  · simp at h
  split at h
  · exact .inl ⟨_, _, (Decoded.ok.inj h).symm⟩
  split at h
  · exact .inr (.inl ⟨_, (Decoded.ok.inj h).symm⟩)
  split at h
  · exact .inr (.inr (.inl (Decoded.ok.inj h).symm))
  split at h
  · exact .inr (.inr (.inr (Decoded.ok.inj h).symm))
  · simp at h

/-- A step code the decoder accepts is one of the eight (R98). -/
theorem decodeSeq_ok {q : StepCode} {i : Instr} (h : decodeSeq q = .ok i) :
    (q = 1#4 ∧ i = .caphdr) ∨ (q = 2#4 ∧ i = .rate) ∨ (q = 3#4 ∧ i = .mgmthdr) ∨
    (q = 4#4 ∧ i = .body) ∨ (q = 5#4 ∧ i = .ieSsid) ∨ (q = 6#4 ∧ i = .ieRates) ∨
    (q = 7#4 ∧ i = .ieDs) ∨ (q = 8#4 ∧ i = .finish) := by
  simp only [decodeSeq] at h
  split_ifs at h <;> cases h <;> simp_all

/-- The number of a word built from its fields (R91). -/
theorem htWord_toNat (k : BitVec 2) (a : Addr) (d : Byte) :
    (htWord k a d).toNat = k.toNat * 2 ^ 30 + a.toNat * 2 ^ 16 + d.toNat := by
  have hk := k.isLt
  have ha := a.isLt
  have hd := d.isLt
  have e1 : (k.setWidth 32 <<< 30 ||| a.setWidth 32 <<< 16 : BitVec 32).toNat =
      k.toNat * 2 ^ 30 + a.toNat * 2 ^ 16 := by
    simp only [BitVec.toNat_or, BitVec.toNat_shiftLeft, BitVec.toNat_setWidth, Nat.shiftLeft_eq]
    rw [Nat.mod_eq_of_lt (a := k.toNat) (by omega), Nat.mod_eq_of_lt (a := a.toNat) (by omega),
      Nat.mod_eq_of_lt (by omega), Nat.mod_eq_of_lt (by omega), ← Nat.shiftLeft_eq,
      Nat.shiftLeft_add_eq_or_of_lt (by omega)]
  have e2 : k.toNat * 2 ^ 30 + a.toNat * 2 ^ 16 = (k.toNat * 2 ^ 14 + a.toNat) <<< 16 := by
    rw [Nat.shiftLeft_eq]; ring
  rw [htWord, BitVec.toNat_or, e1, BitVec.toNat_setWidth, Nat.mod_eq_of_lt (a := d.toNat) (by omega),
    e2, Nat.shiftLeft_add_eq_or_of_lt (by omega)]

/-- The number of a field of a word (R91). -/
theorem field_toNat (w : HTWord) (at_ n : Nat) :
    (w.extractLsb' at_ n).toNat = w.toNat / 2 ^ at_ % 2 ^ n := by
  simp [BitVec.extractLsb'_toNat, Nat.shiftRight_eq_div_pow]

/-! ## Who moves -/

/-- The agents that have a step, one by one. -/
theorem readyAgents_eq (s : State) :
    readyAgents s = (if hostReady s = true then [Agent.host] else []) ++
      (if engineReady s = true then [Agent.engine] else []) ++
      (if consumerReady s = true then [Agent.consumer] else []) := by
  simp only [readyAgents, List.filter, ready]
  cases hostReady s <;> cases engineReady s <;> cases consumerReady s <;> rfl

/-- A state that differs from `s` in the model's own schedule fields at most. -/
def Scheduled (s t : State) : Prop :=
  t = { s with schedule := t.schedule, turn := t.turn, waited := t.waited }

theorem Scheduled.refl (s : State) : Scheduled s s := rfl

theorem preferred_scheduled (s : State) : Scheduled s (preferred s).2 := by
  simp only [preferred]
  split
  · rfl
  · simp only [freeChoice]; split <;> rfl

/-- The agent chosen has a step, and the choice changes the schedule fields at most. -/
theorem chooseAgent_some {s t : State} {a : Agent} (h : chooseAgent s = some (a, t)) :
    ready s a = true ∧ Scheduled s t := by
  have hr : ∀ b, b ∈ readyAgents s → ready s b = true := fun b hb => (List.mem_filter.mp hb).2
  simp only [chooseAgent] at h
  split at h
  · simp at h
  · rename_i b hb
    simp only [Option.some.injEq, Prod.mk.injEq] at h
    exact ⟨h.1 ▸ hr b (by simp [hb]), h.2 ▸ Scheduled.refl s⟩
  · rename_i b c hn hb
    split at h
    · rename_i hp
      simp only [Option.some.injEq, Prod.ext_iff] at h
      exact ⟨h.1 ▸ hp, h.2 ▸ preferred_scheduled s⟩
    · simp only [Option.some.injEq, Prod.mk.injEq] at h
      exact ⟨h.1 ▸ hr _ (by rw [hb]; exact List.mem_cons_self), h.2 ▸ preferred_scheduled s⟩

/-- A choice that passes a waiting engine over uses up some of its delay (R258; log 16). -/
theorem chooseAgent_delay {s t : State} {a : Agent} (hb : s.state = .busy)
    (h : chooseAgent s = some (a, t)) (ha : a ≠ .engine) : engineDelay t < engineDelay s := by
  have he : engineReady s = true := by simp [engineReady, State.busyOut, hb]
  have hp : (preferred s).1 ≠ .engine → engineDelay (preferred s).2 < engineDelay s := by
    simp only [preferred]
    split
    · rename_i b later hs; intro _; simp [engineDelay, hs]
    · rename_i hs
      simp only [freeChoice]
      split
      · intro hn; exact absurd rfl hn
      · rename_i hw
        intro hn
        simp only [he, true_and, not_le] at hw
        simp only [engineDelay, hs, he, true_and, if_pos hn]
        rw [show s.turn + 1 - (s.waited + 1) = s.turn - s.waited by omega]
        simp only [List.length_nil]
        omega
  simp only [chooseAgent] at h
  split at h
  · simp at h
  · rename_i b hb'
    have : Agent.engine ∈ readyAgents s := List.mem_filter.mpr ⟨by simp, he⟩
    rw [hb', List.mem_singleton] at this
    simp only [Option.some.injEq, Prod.mk.injEq] at h
    exact absurd (h.1.symm.trans this.symm) ha
  · split at h
    · simp only [Option.some.injEq, Prod.ext_iff] at h
      rw [← h.2]; exact hp (h.1 ▸ ha)
    · rename_i hr
      simp only [Option.some.injEq, Prod.mk.injEq] at h
      rw [← h.2]
      exact hp fun e => hr (by rw [e]; exact he)

/-- What a step does, by who moves. -/
inductive StepCase (s : State) (o : Result) : Prop where
  /-- A host transaction. -/
  | host (u : State) (w : HTWord) (rest : List HostItem) (i : Instr) (hu : Scheduled s u)
      (hp : s.program = .ht w :: rest) (hw : decodeHT w = .ok i)
      (hwait : i = .wait → s.state ≠ .busy) (ho : o = exec i u)
  /-- RDFRAME's last part. -/
  | frameBytes (u : State) (rest : List HostItem) (hu : Scheduled s u)
      (hp : s.program = .frameBytes :: rest) (ho : o = expandFrameBytes u)
  /-- An engine step. -/
  | engine (u : State) (i : Instr) (hu : Scheduled s u) (hb : s.state = .busy)
      (hq : decodeSeq s.seq = .ok i) (ho : o = exec i u)
  /-- No step of the engine's, SEQ naming none. -/
  | badSeq (hb : s.state = .busy) (hq : ∀ i, decodeSeq s.seq ≠ .ok i) (ho : o = .fault .badSeq)
  /-- A step of the consumer's. -/
  | consumer (u : State) (hu : Scheduled s u) (ho : o = consumerStep u)
  /-- Nobody has a step. -/
  | idle (ho : o = .next s)
  /-- The program is malformed. -/
  | malformed (ho : o = .refused .malformedHT)

/-- All a step can do (R73, R160). -/
theorem step_cases (s : State) : StepCase s (step s) := by
  by_cases ho : programOk s.program = false
  · exact .malformed (by simp [step, fetch, ho])
  cases hc : chooseAgent s with
  | none => exact .idle (by simp [step, fetch, ho, hc])
  | some x =>
    obtain ⟨a, u⟩ := x
    obtain ⟨hr, hu⟩ := chooseAgent_some hc
    cases a with
    | host =>
      have hprog : u.program = s.program := by rw [hu]
      have hf : fetch s = fetchHost u := by simp [fetch, ho, hc]
      cases hp : s.program with
      | nil => simp [ready, hostReady, hp] at hr
      | cons item rest =>
        cases item with
        | frameBytes => exact .frameBytes u rest hu hp (by simp [step, hf, fetchHost, hprog, hp])
        | ht w =>
          cases hw : decodeHT w with
          | ok i =>
            refine .host u w rest i hu hp hw (fun hi hb => ?_) (by simp [step, hf, fetchHost, hprog, hp, hw])
            simp [ready, hostReady, hp, hw, hi, State.busyOut, hb] at hr
          | malformedHT => exact .malformed (by simp [step, hf, fetchHost, hprog, hp, hw])
          | badSeq => exact .malformed (by simp [step, hf, fetchHost, hprog, hp, hw])
    | engine =>
      have hb : s.state = .busy := by simpa [ready, engineReady, State.busyOut] using hr
      have hseq : u.seq = s.seq := by rw [hu]
      cases hq : decodeSeq s.seq with
      | ok i => exact .engine u i hu hb hq (by simp [step, fetch, ho, hc, fetchEngine, hseq, hq])
      | malformedHT =>
        exact .badSeq hb (by simp [hq]) (by simp [step, fetch, ho, hc, fetchEngine, hseq, hq])
      | badSeq => exact .badSeq hb (by simp [hq]) (by simp [step, fetch, ho, hc, fetchEngine, hseq, hq])
    | consumer => exact .consumer u hu (by simp [step, fetch, ho, hc])

/-! ## Engine steps -/

/-- All an engine step can do when it answers a next state (R170 to R177): it writes the bytes of its
sub-structure and names the next step, or it is FINISH and publishes. -/
inductive EngineCase (s t : State) (i : Instr) : Prop where
  | writes (bs : List Byte) (q : StepCode) (hq : 2 ≤ q.toNat) (hf : Fits bs.length s)
      (ht : t = (pushAll bs s).setSeq q)
      (hi : (i = .caphdr ∧ q = 2#4 ∧ bs = capHdrBytes) ∨ (i = .rate ∧ q = 3#4 ∧ bs = rateBytes s.rateCode) ∨
        (i = .mgmthdr ∧ q = 4#4 ∧ bs = mgmtHdrBytes s.apMac) ∨ (i = .body ∧ q = 5#4 ∧ bs = bodyBytes) ∨
        (i = .ieSsid ∧ q = 6#4 ∧ ∃ p, bs = eidSsid :: s.ssidLen :: p ∧ Holds s.ssid s.ssidLen p) ∨
        (i = .ieRates ∧ q = 7#4 ∧ ∃ p, bs = eidRates :: s.ratesLen :: p ∧ Holds s.rates s.ratesLen p) ∨
        (i = .ieDs ∧ q = 8#4 ∧ bs = [eidDs, dsLen, s.channel]))
  | publishes (hi : i = .finish) (hc : s.cur = s.len) (ht : t = publish s)

/-- A payload read cell by cell is what the cells hold. -/
theorem holds_of_payload {m : Memory} {n : Byte} {bs : List Byte} (hl : bs.length = n.toNat)
    (hp : ∀ k, k < n.toNat → cfgByte m k = bs[k]?) : Holds m n bs := by
  refine List.ext_getElem? fun k => ?_
  rw [cells_getElem?, List.getElem?_map]
  by_cases hk : k < n.toNat
  · have hb : k < bs.length := by omega
    rw [if_pos hk, show Memory.read m k = bs[k]? from hp k hk, List.getElem?_eq_getElem hb]; rfl
  · rw [if_neg hk, List.getElem?_eq_none (by omega)]; rfl

theorem engine_next {s t : State} {q : StepCode} {i : Instr} (hq : decodeSeq q = .ok i)
    (h : exec i s = .next t) : EngineCase s t i := by
  have hi := decodeSeq_ok hq
  cases i <;> simp only [reduceCtorEq, and_false, or_false, false_or, or_self] at hi
  case caphdr =>
    obtain ⟨hf, ht⟩ := writeStep_next (by simp [capHdrBytes]) h
    exact .writes _ 2#4 (by decide) hf ht (by simp)
  case rate =>
    obtain ⟨hf, ht⟩ := writeStep_next (by simp [rateBytes]) h
    exact .writes _ 3#4 (by decide) hf ht (by simp)
  case mgmthdr =>
    obtain ⟨hf, ht⟩ := writeStep_next (by simp [mgmtHdrBytes, le16]) h
    exact .writes _ 4#4 (by decide) hf ht (by simp)
  case body =>
    obtain ⟨hf, ht⟩ := writeStep_next (by simp [bodyBytes, le16]) h
    exact .writes _ 5#4 (by decide) hf ht (by simp)
  case ieSsid =>
    obtain ⟨p, hl, hp, hf, ht⟩ := tlvStep_next h
    exact .writes (eidSsid :: s.ssidLen :: p) 6#4 (by decide) hf ht (by simp [holds_of_payload hl hp])
  case ieRates =>
    obtain ⟨p, hl, hp, hf, ht⟩ := tlvStep_next h
    exact .writes (eidRates :: s.ratesLen :: p) 7#4 (by decide) hf ht (by simp [holds_of_payload hl hp])
  case ieDs =>
    obtain ⟨p, hl, hp, hf, ht⟩ := tlvStep_next h
    have : p = [s.channel] := by
      match p, hl, hp with
      | [b], _, hp => have := hp 0 (by decide); simp at this; rw [this]
    subst this
    exact .writes ([eidDs, dsLen, s.channel]) 8#4 (by decide) hf ht (by simp)
  case finish =>
    simp only [exec, execFinish] at h
    split at h
    · simp at h
    · cases h; exact .publishes rfl (by simp_all) rfl

/-! ## Host transactions -/

/-- All a WR can do (R141 to R145, R150 to R155). -/
theorem deliver_cases (a : Addr) (d : Byte) (s : State) :
    (s.state = .busy ∧ deliver (busWrite a d) s = s.dropWrite) ∨
    (s.state ≠ .busy ∧ (deliver (busWrite a d) s = s ∨
      (a ≠ 0x000#12 ∧ deliver (busWrite a d) s = s.store a d) ∨
      (a = 0x000#12 ∧ d ≠ 0x00#8 ∧ ∃ c, c ≠ .none ∧ deliver (busWrite a d) s = raiseError c s) ∨
      (a = 0x000#12 ∧ d = 0x01#8 ∧ (s.params.checkChannel = true → s.channel ≠ 0#8) ∧
        (frameLength s).toNat ≤ s.params.bufCap ∧ deliver (busWrite a d) s = acceptBuild s))) := by
  by_cases hb : s.state = .busy
  · exact .inl ⟨hb, by simp [deliver, hb]⟩
  · refine .inr ⟨hb, ?_⟩
    have hd : deliver (busWrite a d) s = busWrite a d s := by simp [deliver, hb]
    rw [hd]
    by_cases ha : a = 0x000#12
    · subst ha
      by_cases h0 : d = 0x00#8
      · exact .inl (by simp [busWrite, command, h0])
      · by_cases h1 : d = 0x01#8
        · have hw : busWrite 0x000#12 d s = buildCommand s := by simp [busWrite, command, h1]
          rw [hw]
          rcases buildCommand_cases s with ⟨_, _, e⟩ | ⟨_, e⟩ | ⟨e1, e2, e⟩
          · exact .inr (.inr (.inl ⟨rfl, h0, _, by simp, e⟩))
          · exact .inr (.inr (.inl ⟨rfl, h0, _, by simp, e⟩))
          · exact .inr (.inr (.inr ⟨rfl, h1, e1, e2, e⟩))
        · exact .inr (.inr (.inl ⟨rfl, h0, .badCmd, by simp, by simp [busWrite, command, h0, h1]⟩))
    · simp only [busWrite, if_neg ha]
      split
      · exact .inr (.inl ⟨ha, rfl⟩)
      · exact .inl rfl

/-- All a host transaction or WAIT can do when it answers a next state (R140 to R147). -/
inductive HostCase (s t : State) (i : Instr) : Prop where
  /-- A RD or a WAIT that goes on: the host's own state alone. -/
  | keep (n : Nat) (tr : List Byte)
      (ht : t = { s with trace := tr, draws := n, program := s.program.tail })
      (hi : ∀ a d, i ≠ .wr a d)
  /-- A WAIT that holds. -/
  | hold (hi : i = .wait) (hb : s.state = .busy) (ht : t = s)
  /-- A WR dropped while BUSY. -/
  | drop (a : Addr) (d : Byte) (hi : i = .wr a d) (hb : s.state = .busy) (ht : t = s.dropWrite.advance)
  /-- A NOP, or a WR that is ignored. -/
  | ignore (a : Addr) (d : Byte) (hi : i = .wr a d) (hb : s.state ≠ .busy) (ht : t = s.advance)
  /-- A configuration write. -/
  | store (a : Addr) (d : Byte) (hi : i = .wr a d) (hb : s.state ≠ .busy) (ha : a ≠ 0x000#12)
      (ht : t = (s.store a d).advance)
  /-- A command that fails. -/
  | error (c : ErrCode) (d : Byte) (hi : i = .wr 0x000#12 d) (hd : d ≠ 0x00#8) (hb : s.state ≠ .busy)
      (hc : c ≠ .none) (ht : t = (raiseError c s).advance)
  /-- An accepted BUILD. -/
  | build (hi : i = .wr 0x000#12 0x01#8) (hb : s.state ≠ .busy)
      (hch : s.params.checkChannel = true → s.channel ≠ 0#8)
      (hl : (frameLength s).toNat ≤ s.params.bufCap) (ht : t = (acceptBuild s).advance)
  /-- A RST. -/
  | reset (hi : i = .rst) (ht : t = s.resetBlock.advance)

theorem host_next {s t : State} {w : HTWord} {i : Instr} (hw : decodeHT w = .ok i)
    (h : exec i s = .next t) : HostCase s t i := by
  rcases decodeHT_ok hw with ⟨a, d, rfl⟩ | ⟨a, rfl⟩ | rfl | rfl
  · simp only [exec, execWr, Host.Outcome.next.injEq] at h
    rcases deliver_cases a d s with
      ⟨hb, e⟩ | ⟨hb, e | ⟨ha, e⟩ | ⟨ha, hd, c, hc, e⟩ | ⟨ha, hd, h1, h2, e⟩⟩ <;> rw [e] at h
    · exact .drop a d rfl hb h.symm
    · exact .ignore a d rfl hb h.symm
    · exact .store a d rfl hb ha h.symm
    · subst ha; exact .error c d rfl hd hb hc h.symm
    · subst ha hd; exact .build rfl hb h1 h2 h.symm
  · simp only [exec, execRd, Host.Outcome.next.injEq] at h
    rcases busRead_state a s with e | e <;> rw [e] at h <;> exact .keep _ _ h.symm (by simp)
  · simp only [exec, execRst, Host.Outcome.next.injEq] at h
    exact .reset rfl h.symm
  · simp only [exec, execWait] at h
    split at h
    · cases h; exact .hold rfl ‹_› rfl
    · cases h; exact .keep s.draws s.trace rfl (by simp)

/-- All RDFRAME's last part can do (R104): items go in its place, and nothing else changes. -/
theorem expandFrameBytes_cases (s : State) :
    expandFrameBytes s = .refused .malformedHT ∨
      ∃ items, expandFrameBytes s = .next { s with program := items ++ s.program.tail } := by
  simp only [expandFrameBytes]
  split
  · exact .inl rfl
  · exact .inr ⟨_, rfl⟩

/-- All a consumer's step can do when it answers a next state (R228): the consumer and the number of
draws change, and nothing else. -/
theorem consumerStep_next {s t : State} (h : consumerStep s = .next t) :
    t = { s with consumer := t.consumer, draws := t.draws } := by
  have hb : ∀ (a : Addr) (p : ConsumerPhase), (busRead a s).2.setPhase p =
      { s with
        consumer := ((busRead a s).2.setPhase p).consumer
        draws := ((busRead a s).2.setPhase p).draws } := by
    intro a p; rcases busRead_state a s with e | e <;> rw [e] <;> rfl
  simp only [consumerStep] at h
  split at h
  · cases h; rfl
  · split at h <;> cases h <;> rfl
  · cases h; exact hb _ _
  · cases h; exact hb _ _
  · simp only [copyByte] at h
    split at h
    · split at h
      · cases h; exact hb _ _
      · simp at h
    · cases h; rfl
  · cases h; simp only [sendFrame]; split <;> rfl
  · cases h; rfl

end Sys2Proof.Machine
end

