-- ==== Sys2Proof/Tests/Slice0.lean ====
section
/-! SUPPORT. Tests against the spec's own vectors (95_test_vectors.md), and for every obligation with
hypotheses a named witness that meets them. -/

namespace Sys2Proof.Tests

set_option maxRecDepth 8000

open Sys2Proof.Machine Sys2Proof.Config

/-! ## Helpers -/

/-- The next state, where there is one. -/
def next? (o : Result) : Option State :=
  match o with
  | .next s => some s
  | .fault _ => none
  | .refused _ => none

/-- The next state, for an outcome that has one. -/
def nextOf (o : Result) : State := (next? o).getD State.reset

theorem goes {o : Result} (h : (next? o).isSome = true) : o = .next (nextOf o) := by
  cases o <;> simp_all [next?, nextOf]

/-- STATUS after a step. -/
def statusAfter (o : Result) : Option Byte := (next? o).map statusByte

/-- The RD trace after a step. -/
def traceAfter (o : Result) : Option (List Byte) := (next? o).map State.trace

/-- Written cells 0, 1, ... with the given bytes. -/
def numbered (bs : List Byte) : Memory := bs.zipIdx.map fun p => (p.2, p.1)

/-- "Hello World!" (L1.1). -/
def helloSsid : List Byte :=
  [0x48#8, 0x65#8, 0x6C#8, 0x6C#8, 0x6F#8, 0x20#8, 0x57#8, 0x6F#8, 0x72#8, 0x6C#8, 0x64#8, 0x21#8]

/-- The rates of L1.1. -/
def helloRates : List Byte := [0x82#8, 0x84#8, 0x0B#8, 0x16#8]

/-- The configuration of program P1 (L3.1), with no build yet. -/
def hello : State :=
  { State.reset with
    rateCode := 0x04#8
    channel := 0x06#8
    apMac := #v[0x02#8, 0x11#8, 0x22#8, 0x33#8, 0x44#8, 0x55#8]
    ssidLen := 12#8
    ssid := numbered helloSsid
    ratesLen := 4#8
    rates := numbered helloRates }

/-- The dump of P1's frame (L3.1). -/
def helloFrame : List Byte :=
  [0x00#8, 0x00#8, 0x09#8, 0x00#8, 0x04#8, 0x00#8, 0x00#8, 0x00#8] ++ [0x04#8] ++
  [0x80#8, 0x00#8, 0x00#8, 0x00#8, 0xff#8, 0xff#8, 0xff#8, 0xff#8, 0xff#8, 0xff#8, 0x02#8, 0x11#8,
    0x22#8, 0x33#8, 0x44#8, 0x55#8, 0x02#8, 0x11#8, 0x22#8, 0x33#8, 0x44#8, 0x55#8, 0x00#8, 0x00#8] ++
  List.replicate 8 0x00#8 ++ [0x64#8, 0x00#8, 0x01#8, 0x00#8] ++
  [0x00#8, 0x0c#8, 0x48#8, 0x65#8, 0x6c#8, 0x6c#8, 0x6f#8, 0x20#8, 0x57#8, 0x6f#8, 0x72#8, 0x6c#8,
    0x64#8, 0x21#8] ++
  [0x01#8, 0x04#8, 0x82#8, 0x84#8, 0x0b#8, 0x16#8] ++ [0x03#8, 0x01#8, 0x06#8]

/-- P1's build before the step `q` that starts at offset `cur` (the table of L2.4). -/
def atStep (q : StepCode) (cur : Nat) : State :=
  { hello with
    state := .busy
    seq := q
    cur := BitVec.ofNat 16 cur
    len := 68#16
    frameBuf := numbered (helloFrame.take cur) }

/-- P1's end state (L3.1). -/
def helloDone : State :=
  { hello with
    state := .done
    frameLen := 68#16
    cur := 68#16
    len := 68#16
    frameBuf := numbered helloFrame }

/-! ## Well-formedness and decoding -/

/-- The ill-formed terms: 0x00 and 0x01 are NOP and BUILD (R96, R97). -/
theorem test_reserved_00_ill_formed : (Instr.reservedCmd 0x00#8).wellFormed = false := by decide
theorem test_reserved_01_ill_formed : (Instr.reservedCmd 0x01#8).wellFormed = false := by decide

/-- L2.1, each word bit by bit from R91: KIND, 00, ADDR, 00000000, DATA. -/
theorem test_decode_wr :
    decodeHT 0b00000000000001100000000000000110#32 = .ok (.wr 0x006#12 0x06#8) := by decide
theorem test_decode_rd :
    decodeHT 0b01001111111111110000000000000000#32 = .ok (.rd 0xFFF#12) := by decide
theorem test_decode_rst : decodeHT 0b10000000000000000000000000000000#32 = .ok .rst := by decide
theorem test_decode_wait : decodeHT 0b11000000000000000000000000000000#32 = .ok .wait := by decide

/-- The refused words of L2.1. -/
theorem test_decode_malformed :
    [0x10000000#32, 0x20060006#32, 0x00060106#32, 0x40020001#32, 0x80010000#32, 0x80000001#32,
      0xC0000001#32, 0xC0040000#32].map decodeHT = List.replicate 8 .malformedHT := by decide

/-- The command codes of R96, R97. -/
theorem test_decode_commands :
    decodeCmd 0b00000000#8 = .nop ∧ decodeCmd 0b00000001#8 = .build ∧
      decodeCmd 0b00000010#8 = .reservedCmd 0x02#8 ∧ decodeCmd 0b11111111#8 = .reservedCmd 0xFF#8 := by
  decide

/-- The step codes of R98. -/
theorem test_decode_steps :
    decodeSeq 0b0001#4 = .ok .caphdr ∧ decodeSeq 0b0010#4 = .ok .rate ∧
    decodeSeq 0b0011#4 = .ok .mgmthdr ∧ decodeSeq 0b0100#4 = .ok .body ∧
    decodeSeq 0b0101#4 = .ok .ieSsid ∧ decodeSeq 0b0110#4 = .ok .ieRates ∧
    decodeSeq 0b0111#4 = .ok .ieDs ∧ decodeSeq 0b1000#4 = .ok .finish := by decide

/-- The words of the opcode table, as the host lays them out (log 9). -/
theorem test_table_words :
    decodeTableWord 32 0x00060006 = some (.wr 0x006#12 0x06#8) ∧
    decodeTableWord 32 0xC0000000 = some .wait ∧ decodeTableWord 8 0x01 = some .build ∧
    decodeTableWord 8 0x08 = some .finish ∧ decodeTableWord 8 0x80 = some (.reservedCmd 0x80#8) ∧
    decodeTableWord 4 0x1 = some .caphdr := by decide

/-- A table word runs as the first instruction after reset (log 10). -/
theorem test_fetch_word :
    next? (step (State.reset.withFetchWord 32 0x00060006)) = some { State.reset with channel := 0x06#8 } ∧
    (next? (step (State.reset.withFetchWord 8 0x02))).map State.seq = some 3#4 := by decide

/-! ## Host transactions (L2.2) -/

/-- T11: the write of CHANNEL. -/
theorem test_wr_channel : next? (exec (.wr 0x006#12 0x06#8) State.reset) =
    some { State.reset with channel := 0x06#8 } := by decide
/-- T16: dropped while BUSY, STATUS 0x05. -/
theorem test_wr_busy : next? (exec (.wr 0x006#12 0x0B#8) (atStep 1#4 0)) =
    some { atStep 1#4 0 with drop := true } ∧
    statusAfter (exec (.wr 0x006#12 0x0B#8) (atStep 1#4 0)) = some 0x05#8 := by decide
/-- T8, T9: the reserved addresses next to the others. -/
theorem test_rd_reserved :
    [0x00F#12, 0x0FF#12, 0x1FF#12, 0x2FF#12, 0x3FF#12, 0x632#12, 0xFFF#12].map
      (fun a => traceAfter (exec (.rd a) hello)) = List.replicate 7 (some [0x00#8]) := by decide
/-- P1's RD trace (L3.1), read by read. -/
theorem test_rd_frame : [0x001#12, 0x002#12, 0x003#12, 0x408#12, 0x429#12, 0x441#12, 0x443#12].map
    (fun a => traceAfter (exec (.rd a) helloDone)) =
    [0x02#8, 0x44#8, 0x00#8, 0x04#8, 0x64#8, 0x03#8, 0x06#8].map (fun b => some [b]) := by decide
/-- T20: RST while BUSY. -/
theorem test_rst_busy : next? (exec .rst (atStep 5#4 45)) = some State.reset := by decide
/-- T22, T21: WAIT holds while BUSY and else goes on. -/
theorem test_wait : next? (exec .wait { atStep 1#4 0 with program := [.ht 0xC0000000#32] }) =
      some { atStep 1#4 0 with program := [.ht 0xC0000000#32] } ∧
    next? (exec .wait { helloDone with program := [.ht 0xC0000000#32] }) = some helloDone := by decide

/-! ## Commands (L2.3) -/

/-- K17: NOP keeps ERROR, DROP and the code. -/
theorem test_nop_error : statusAfter (exec .nop
    { State.reset with state := .error, err := .badChannel, drop := true }) = some 0x27#8 := by decide
/-- K10, K9: the frame of 68 bytes against a buffer of 68 and of 60. -/
theorem test_build_capacity :
    next? (exec .build { hello with params := { bufCap := 68, checkChannel := true } }) =
      some { hello with
        params := { bufCap := 68, checkChannel := true }, state := .busy, seq := 1#4, len := 68#16 } ∧
    statusAfter (exec .build { hello with params := { bufCap := 60, checkChannel := true } }) =
      some 0x33#8 := by decide
/-- K11, K8: the channel is checked first, and only where the parameter says so. -/
theorem test_build_channel :
    statusAfter (exec .build
      { hello with channel := 0#8, params := { bufCap := 60, checkChannel := true } }) = some 0x23#8 ∧
    statusAfter (exec .build
      { State.reset with params := { bufCap := 562, checkChannel := false } }) = some 0x01#8 := by decide
/-- K6: a reserved code after DONE. -/
theorem test_reserved_command : next? (exec (.reservedCmd 0x80#8) helloDone) =
    some { helloDone with state := .error, err := .badCmd, frameLen := 0#16 } := by decide

/-! ## Engine steps (L2.4) -/

theorem test_caphdr : next? (exec .caphdr (atStep 1#4 0)) = some (atStep 2#4 8) := by decide
theorem test_rate : next? (exec .rate (atStep 2#4 8)) = some (atStep 3#4 9) := by decide
/-- The masking table of L2.4. -/
theorem test_rate_mask : [0x00#8, 0x04#8, 0x7F#8, 0x80#8, 0x82#8, 0x96#8, 0xFF#8].map rateBytes =
    [0x00#8, 0x04#8, 0x7F#8, 0x00#8, 0x02#8, 0x16#8, 0x7F#8].map fun b => [b] := by decide
theorem test_mgmthdr : next? (exec .mgmthdr (atStep 3#4 9)) = some (atStep 4#4 33) := by decide
theorem test_body : next? (exec .body (atStep 4#4 33)) = some (atStep 5#4 45) := by decide
theorem test_ie_ssid : next? (exec .ieSsid (atStep 5#4 45)) = some (atStep 6#4 59) := by decide
theorem test_ie_rates : next? (exec .ieRates (atStep 6#4 59)) = some (atStep 7#4 65) := by decide
theorem test_ie_ds : next? (exec .ieDs (atStep 7#4 65)) = some (atStep 8#4 68) := by decide
theorem test_finish : next? (exec .finish (atStep 8#4 68)) = some helloDone := by decide
/-- The fault corner of L2.5: SSID_LEN = 3 with two cells written. -/
theorem test_ie_ssid_unwritten : exec .ieSsid
    { atStep 5#4 45 with ssidLen := 3#8, ssid := numbered [0x41#8, 0x42#8] } =
      .fault .unwrittenInput := by rfl

/-- The frame function on P1's configuration gives P1's dump (L3.1). -/
theorem test_frame : buildFrame hello.rateCode hello.channel hello.apMac helloSsid helloRates =
    helloFrame := by decide

/-! ## The assembler (L3.1) -/

/-- `WR 0x009, 0x02 ; x` is the word 00090002, and `RD 4096` is refused. -/
theorem test_assembler_lines :
    assembleLines [['W', 'R', ' ', '0', 'x', '0', '0', '9', ',', ' ', '0', 'x', '0', '2', ' ', ';', 'x']] =
      some [.ht 0x00090002#32] ∧
    assembleLines [['R', 'D', ' ', '4', '0', '9', '6']] = none := by decide
/-- `WRS 0x100, "He"` and `RDB 0x441, 2` (R104). -/
theorem test_assembler_expansions :
    assembleLines [['W', 'R', 'S', ' ', '0', 'x', '1', '0', '0', ',', ' ', '"', 'H', 'e', '"'],
        ['R', 'D', 'B', ' ', '0', 'x', '4', '4', '1', ',', ' ', '2']] =
      some [.ht 0x01000048#32, .ht 0x01010065#32, .ht 0x44410000#32, .ht 0x44420000#32] := by decide

/-! ## The transmit consumer (L2.8) -/

/-- P1's end state with a consumer in the given phase, the given answers to come, and what follows them. -/
def withConsumer (phase : ConsumerPhase) (port : List WriteAnswer) (rest : WriteRest) : State :=
  { helloDone with consumer := { phase := phase, port := port, rest := rest, sent := [] } }

/-- An error text. -/
def noDevice : List Char := ['E', 'N', 'X', 'I', 'O']

/-- A short count stops the loop after that attempt and reports the text. -/
theorem test_consumer_short :
    (next? (consumerStep (withConsumer (.sending helloFrame) [⟨67, noDevice⟩] .succeeds))).map
      State.consumer = some
        { phase := .failed helloFrame 67 noDevice, port := [], rest := .succeeds, sent := [helloFrame] } := by
  decide
/-- With a handle that always returns L the loop does not end; with one that never returns it is stuck. -/
theorem test_consumer_rest :
    consumerReady (nextOf (consumerStep (withConsumer (.sending helloFrame) [] .succeeds))) = true ∧
    consumerReady (withConsumer (.sending helloFrame) [] .blocks) = false := by decide

/-! ## Witnesses: encodings -/

theorem witness_decodeOfEncode : (Instr.reservedCmd 0x02#8).wellFormed = true ∧
    (Instr.reservedCmd 0xFF#8).wellFormed = true := by decide
theorem witness_encodeOfDecode : decode (.ht 0x4FFF0000#32) = .ok (.rd 0xFFF#12) ∧
    decode (.cmd 0x02#8) = .ok (.reservedCmd 0x02#8) ∧ decode (.seq 8#4) = .ok .finish := by decide
theorem witness_commandAndStepCodes : 2 ≤ (0x02#8 : Byte).toNat ∧ 2 ≤ (0xFF#8 : Byte).toNat ∧
    (0#4 : StepCode).toNat = 0 ∧ 9 ≤ (9#4 : StepCode).toNat ∧ 9 ≤ (15#4 : StepCode).toNat := by decide

/-! ## Witnesses: steps -/

/-- A host with one transaction and a WAIT left, and no build running. -/
def hostOnly : State := { hello with program := [.ht 0x00060006#32, .ht 0xC0000000#32] }

/-- A build at its start, with a host that has the same left. -/
def both : State := { atStep 1#4 0 with program := [.ht 0x00060006#32, .ht 0xC0000000#32] }

theorem witness_hostStep : hostOnly.program = .ht 0x00060006#32 :: [.ht 0xC0000000#32] ∧
    programOk hostOnly.program = true ∧ decodeHT 0x00060006#32 = .ok (.wr 0x006#12 0x06#8) ∧
    hostOnly.state ≠ .busy ∧ consumerReady hostOnly = false := by decide
theorem witness_engineStep_alone : (atStep 1#4 0).state = .busy ∧
    decodeSeq (atStep 1#4 0).seq = .ok .caphdr ∧ consumerReady (atStep 1#4 0) = false ∧
    programOk (atStep 1#4 0).program = true ∧ (atStep 1#4 0).program = [] := by decide
theorem witness_engineStep_wait :
    let s := { atStep 8#4 68 with program := [.ht 0xC0000000#32] }
    s.state = .busy ∧ decodeSeq s.seq = .ok .finish ∧ consumerReady s = false ∧
    programOk s.program = true ∧ s.program = .ht 0xC0000000#32 :: [] ∧
    decodeHT 0xC0000000#32 = .ok .wait := by decide
theorem witness_interleave : both.program = .ht 0x00060006#32 :: [.ht 0xC0000000#32] ∧
    programOk both.program = true ∧ decodeHT 0x00060006#32 = .ok (.wr 0x006#12 0x06#8) ∧
    (Instr.wr 0x006#12 0x06#8) ≠ .wait ∧ both.state = .busy ∧ decodeSeq both.seq = .ok .caphdr ∧
    consumerReady both = false ∧ both.schedule = [] ∧
    ({ both with schedule := [.host] } : State).schedule = .host :: [] ∧
    ({ both with schedule := [.engine] } : State).schedule = .engine :: [] := by decide
theorem witness_badStepCode : (atStep 0#4 0).state = .busy ∧ (atStep 0#4 0).seq.toNat = 0 ∧
    9 ≤ (atStep 9#4 0).seq.toNat ∧ 9 ≤ (atStep 15#4 0).seq.toNat ∧
    (atStep 0#4 0).program = [] ∧ (atStep 0#4 0).consumer.phase = .off := by decide
theorem witness_malformed :
    HostItem.ht 0x10000000#32 ∈ ({ hello with program := [.ht 0x80000000#32, .ht 0x10000000#32] } :
      State).program ∧ decodeHT 0x10000000#32 = .malformedHT ∧
    ['R', 'D', ' ', '4', '0', '9', '6'] ∈ [['R', 'S', 'T'], ['R', 'D', ' ', '4', '0', '9', '6']] ∧
    (parseLine ['R', 'D', ' ', '4', '0', '9', '6']).bind expandStmt = none := by decide
theorem witness_idle : RunEnded helloDone ∧ consumerReady helloDone = false :=
  ⟨⟨rfl, by decide⟩, rfl⟩

/-! ## Witnesses: host transactions -/

theorem witness_readReserved : Reserved 0x00F#12 hello ∧ Reserved 0x0FF#12 hello ∧
    Reserved 0x1FF#12 hello ∧ Reserved 0x2FF#12 hello ∧ Reserved 0x3FF#12 hello ∧
    Reserved 0x632#12 hello ∧ Reserved 0xFFF#12 hello := by decide
theorem witness_readDescriptor : 0 < 255 ∧ 254 < 255 ∧ Memory.read hello.ssid 0 = some 0x48#8 ∧
    Memory.read hello.ssid 254 = none ∧ Memory.read hello.rates 3 = some 0x16#8 ∧
    Memory.read hello.rates 4 = none := by decide
theorem witness_readFrame :
    (∀ i ∈ [0, 67], i < helloDone.params.bufCap ∧ i < 3072 ∧ helloDone.state = .done ∧
      i < helloDone.frameLen.toNat ∧ Memory.read helloDone.frameBuf i = helloFrame[i]?) ∧
    (∀ i ∈ [68, 561], i < helloDone.params.bufCap ∧ i < 3072 ∧ helloDone.frameLen.toNat ≤ i) := by decide
theorem witness_notBusy : State.reset.state ≠ .busy ∧ helloDone.state ≠ .busy := by decide
theorem witness_busy : (atStep 1#4 0).state = .busy := by decide
theorem witness_writeIgnored : helloDone.state ≠ .busy ∧
    (1 ≤ (0x001#12 : Addr).toNat ∧ (0x004#12 : Addr).toNat ≤ 4) ∧
    (0x00F ≤ (0x00F#12 : Addr).toNat ∧ (0x0FF#12 : Addr).toNat ≤ 0x0FF) ∧
    (0x1FF#12 : Addr).toNat = 0x1FF ∧ 0x2FF ≤ (0x2FF#12 : Addr).toNat ∧
    0x2FF ≤ (0xFFF#12 : Addr).toNat := by decide
theorem witness_writeDescriptor : hello.state ≠ .busy ∧ 0 < 255 ∧ 254 < 255 := by decide
theorem witness_idempotent : (0x1FE#12 : Addr) ≠ 0x000#12 ∧
    exec (.wr 0x1FE#12 0xAB#8) hello = .next (nextOf (exec (.wr 0x1FE#12 0xAB#8) hello)) :=
  ⟨by decide, goes rfl⟩
theorem witness_controlWrites : (Instr.reservedCmd 0x02#8).wellFormed = true := by decide
theorem witness_assembler : (4095 < 4096 ∧ 255 < 256) ∧ (4096 ≤ 4096 ∧ 256 ≤ 256) ∧
    (4094 + [1].length < 4096 ∧ ∀ x ∈ 255 :: [1], x < 256) ∧ (4095 < 4096 ∧ 4095 + 1 ≤ 4096) := by decide
theorem witness_assembler_wrs : 4094 + ['p'].length < 4096 ∧ (∀ x ∈ 'A' :: ['p'], x.toNat < 128) ∧
    4096 ≤ 4095 + ['p'].length ∧ 128 ≤ 'é'.toNat :=
  ⟨by decide, by simp, by decide, by decide⟩
theorem witness_assembler_refused : 4096 ≤ 4095 + [1].length ∧ (∃ x ∈ 0 :: [256], 256 ≤ x) ∧
    4096 < 4095 + 2 := by decide
theorem witness_readFrameExpands :
    let s := { helloDone with program := [.frameBytes], trace := [0x02#8, 0x44#8, 0x00#8] }
    s.program = .frameBytes :: [] ∧ programOk s.program = true ∧ s.state ≠ .busy ∧
    consumerReady s = false ∧ s.trace = [0x02#8] ++ [0x44#8, 0x00#8] ∧
    (0x00#8 : Byte).toNat * 256 + (0x44#8 : Byte).toNat ≤ 3072 := by decide

/-! ## Witnesses: commands and errors -/

theorem witness_buildCommand_accepted :
    let s := { hello with params := { bufCap := 68, checkChannel := true } }
    let u := { State.reset with params := { bufCap := 52, checkChannel := false } }
    (s.state ≠ .busy ∧ s.channel ≠ 0x00#8 ∧
      52 + s.ssidLen.toNat + s.ratesLen.toNat ≤ s.params.bufCap) ∧
    (u.state ≠ .busy ∧ u.params.checkChannel = false ∧
      52 + u.ssidLen.toNat + u.ratesLen.toNat ≤ u.params.bufCap) := by decide
theorem witness_buildCommand_channel : State.reset.state ≠ .busy ∧
    State.reset.params.checkChannel = true ∧ State.reset.channel = 0x00#8 := by decide
theorem witness_buildCommand_overflow :
    let s := { hello with params := { bufCap := 67, checkChannel := true } }
    s.state ≠ .busy ∧ (s.params.checkChannel = false ∨ s.channel ≠ 0x00#8) ∧
    s.params.bufCap < 52 + s.ssidLen.toNat + s.ratesLen.toNat := by decide
theorem witness_reservedCommand : helloDone.state ≠ .busy ∧
    (Instr.reservedCmd 0x02#8).wellFormed = true ∧ (Instr.reservedCmd 0xFF#8).wellFormed = true := by
  decide

/-- P1's configuration in ERROR, with a program. -/
def failed (w : HTWord) : State := { hello with state := .error, err := .badCmd, program := [.ht w] }

/-- NOP, a failing command, BUILD and RST from ERROR. -/
theorem witness_errorLeft :
    ((failed 0x00000000#32).state = .error ∧
      step (failed 0x00000000#32) = .next (nextOf (step (failed 0x00000000#32)))) ∧
    step (failed 0x00000002#32) = .next (nextOf (step (failed 0x00000002#32))) ∧
    step (failed 0x00000001#32) = .next (nextOf (step (failed 0x00000001#32))) ∧
    step (failed 0x80000000#32) = .next (nextOf (step (failed 0x80000000#32))) :=
  ⟨⟨rfl, goes (by decide)⟩, goes (by decide), goes (by decide), goes (by decide)⟩

/-! ## Witnesses: engine steps -/

theorem witness_caphdr : Fits 8 (atStep 1#4 0) := by decide
theorem witness_rate : Fits 1 (atStep 2#4 8) := by decide
theorem witness_mgmthdr : Fits 24 (atStep 3#4 9) := by decide
theorem witness_body : Fits 12 (atStep 4#4 33) := by decide
theorem witness_ieSsid : Holds (atStep 5#4 45).ssid (atStep 5#4 45).ssidLen helloSsid ∧
    Fits (2 + (atStep 5#4 45).ssidLen.toNat) (atStep 5#4 45) := ⟨by rfl, by decide⟩
theorem witness_ieRates : Holds (atStep 6#4 59).rates (atStep 6#4 59).ratesLen helloRates ∧
    Fits (2 + (atStep 6#4 59).ratesLen.toNat) (atStep 6#4 59) := ⟨by rfl, by decide⟩
/-- The last three bytes of a buffer that is just large enough. -/
theorem witness_ieDs :
    Fits 3 { atStep 7#4 65 with params := { bufCap := 68, checkChannel := true } } := by decide
theorem witness_finish : (atStep 8#4 68).cur = (atStep 8#4 68).len ∧ (atStep 7#4 65).cur ≠ (atStep 7#4 65).len := by
  decide
theorem witness_ieSsid_unwritten :
    let s := { atStep 5#4 45 with ssidLen := 13#8 }
    Fits (2 + s.ssidLen.toNat) s ∧ 12 < s.ssidLen.toNat ∧ Memory.read s.ssid 12 = none := by decide
theorem witness_ieRates_unwritten :
    let s := { atStep 6#4 59 with ratesLen := 5#8 }
    Fits (2 + s.ratesLen.toNat) s ∧ 4 < s.ratesLen.toNat ∧ Memory.read s.rates 4 = none := by decide
theorem witness_pastLength : (atStep 7#4 68).len.toNat ≤ (atStep 7#4 68).cur.toNat ∧
    Instr.ieDs ∈ [Instr.caphdr, .rate, .mgmthdr, .body, .ieSsid, .ieRates, .ieDs] := by decide
/-- The step that ends at LEN. -/
theorem witness_pastLength_next : exec .ieDs (atStep 7#4 65) = .next (atStep 8#4 68) := by rfl

/-! ## Witnesses: the laws of the frame -/

theorem witness_buildProduces :
    hello.state ≠ .busy ∧ exec .build hello = .next (nextOf (exec .build hello)) ∧
    (nextOf (exec .build hello)).state = .busy ∧ EngineAlone (nextOf (exec .build hello)) ∧
    Holds hello.ssid hello.ssidLen helloSsid ∧ Holds hello.rates hello.ratesLen helloRates :=
  ⟨by decide, goes rfl, rfl, ⟨rfl, rfl⟩, rfl, rfl⟩
theorem witness_frameLayout : ([] : List Byte).length ≤ 255 ∧
    (List.replicate 255 0x41#8 : List Byte).length ≤ 255 := by decide
theorem witness_masking : 0 < helloRates.length ∧ 3 < helloRates.length := by decide

/-! ## Witnesses: invariants -/

/-- A running build meets the invariants where these checks hold. -/
theorem inv_of_busy {s : State} (hm : MemInv s) (hb : s.state = .busy) (hp : s.params.legal)
    (hq : 1 ≤ s.seq.toNat ∧ s.seq.toNat ≤ 8)
    (hl : s.len = frameLength s ∧ s.len.toNat ≤ s.params.bufCap ∧ s.cur = startOffset s.seq s)
    (hc : s.channel ≠ 0#8) (hf : s.frameLen = 0#16) (he : s.err = .none)
    (hy : ∀ i, i < s.cur.toNat → (Memory.read s.frameBuf i).isSome = true ∧
      (expectedFrame s)[i]? = some (Memory.read s.frameBuf i))
    (ho : s.consumer.phase = .off) : BfsInv s where
  mem := hm
  control := {
    legal := hp
    busySeq := by simp [hb, hq]
    restSeq := by simp [hb]
    busyLen := fun _ => hl
    busyChannel := fun _ _ => hc
    doneLen := by simp [hb]
    restLen := fun _ => hf
    errState := by simp [hb, he] }
  frame := {
    busyBytes := fun _ i hi => by
      obtain ⟨h1, h2⟩ := hy i hi
      obtain ⟨b, hb⟩ := Option.isSome_iff_exists.mp h1
      exact ⟨b, hb, hb ▸ h2⟩
    doneFrame := by simp [hb] }
  consumer := ⟨by simp [ho]⟩

/-- A build of P1's configuration whose SSID_LEN covers one cell too many, at IE_SSID. -/
def blankCell : State := { atStep 5#4 45 with ssidLen := 13#8, len := 69#16 }

theorem witness_inv_start : BfsInv (atStep 1#4 0) :=
  inv_of_busy ⟨by decide, by decide, by decide, by decide, by decide, by decide⟩ rfl (by decide)
    (by decide) (by decide) (by decide) rfl rfl (by decide) rfl
theorem witness_inv_blank : BfsInv blankCell :=
  inv_of_busy ⟨by decide, by decide, by decide, by decide, by decide, by decide⟩ rfl (by decide)
    (by decide) (by decide) (by decide) rfl rfl (by decide) rfl
/-- StepKeepsMemory and StepKeepsInvariant. -/
theorem witness_stepKeeps : BfsInv (atStep 1#4 0) ∧ MemInv (atStep 1#4 0) ∧
    step (atStep 1#4 0) = .next (nextOf (step (atStep 1#4 0))) :=
  ⟨witness_inv_start, witness_inv_start.mem, goes (by decide)⟩
theorem witness_unwrittenReachable : BfsInv blankCell ∧ step blankCell = .fault .unwrittenInput :=
  ⟨witness_inv_blank, rfl⟩

/-- The start of P1's build is carried through in eight steps. -/
theorem buildRun_start : BuildRun 8 (atStep 1#4 0) (nextOf (core.run 8 (atStep 1#4 0))) := by
  refine ⟨goes (by decide), by decide, fun k hk => ⟨nextOf (core.run k (atStep 1#4 0)), ?_, ?_⟩⟩
  · refine goes (o := core.run k (atStep 1#4 0)) ?_
    interval_cases k <;> decide
  · interval_cases k <;> decide

/-- P1's configuration in a state that meets the invariants, with an accepted BUILD. -/
theorem witness_frameOfAccepted :
    hello.state ≠ .busy ∧ BfsInv hello ∧ exec .build hello = .next (atStep 1#4 0) ∧
    (atStep 1#4 0).state = .busy ∧ BuildRun 8 (atStep 1#4 0) (nextOf (core.run 8 (atStep 1#4 0))) :=
  ⟨by decide,
    { mem := ⟨by decide, by decide, by decide, by decide, by decide, by decide⟩
      control := ⟨by decide, by decide, by decide, by decide, by decide, by decide, by decide, by decide⟩
      frame := ⟨by decide, fun h => by simp [hello, State.reset] at h⟩
      consumer := ⟨by simp [hello, State.reset, Consumer.none]⟩ },
    rfl, rfl, buildRun_start⟩
/-- Two builds that differ in what is not their configuration, one at its start and one at its end. -/
theorem witness_deterministic :
    let s := atStep 1#4 0
    let u := { atStep 8#4 68 with drop := true, trace := [0x01#8] }
    s.state = .busy ∧ u.state = .busy ∧ BfsInv s ∧ BfsInv u ∧ SameConfig s u ∧
    BuildRun 8 s (nextOf (core.run 8 s)) ∧ BuildRun 1 u (nextOf (core.run 1 u)) := by
  refine ⟨rfl, rfl, witness_inv_start,
    inv_of_busy ⟨by decide, by decide, by decide, by decide, by decide, by decide⟩ rfl (by decide)
      (by decide) (by decide) (by decide) rfl rfl (by decide) rfl,
    ⟨rfl, rfl, rfl, rfl, rfl, rfl, rfl⟩, buildRun_start, goes (by decide), by decide, fun k hk => ?_⟩
  obtain rfl : k = 0 := by omega
  exact ⟨_, rfl, rfl⟩

/-! ## Witnesses: whole-machine rules -/

/-- A step inside a build, its last, and a RST in it. -/
theorem witness_configFrozen :
    let u := { atStep 5#4 45 with program := [.ht 0x80000000#32], schedule := [.host] }
    ((atStep 1#4 0).state = .busy ∧ step (atStep 1#4 0) = .next (atStep 2#4 8)) ∧
    ((atStep 8#4 68).state = .busy ∧ step (atStep 8#4 68) = .next helloDone) ∧
    (u.state = .busy ∧ step u = .next State.reset) := ⟨⟨rfl, rfl⟩, ⟨rfl, rfl⟩, rfl, rfl⟩
/-- An accepted BUILD (SEQ 0 to 1). -/
theorem witness_seqMoves :
    let s := { hello with program := [.ht 0x00000001#32] }
    step s = .next (nextOf (step s)) ∧ (nextOf (step s)).seq = 1#4 := ⟨goes (by decide), by decide⟩
/-- A RD leaves the frame, and a BUILD ends it. -/
theorem witness_publishedStays :
    let s := { helloDone with program := [.ht 0x40010000#32] }
    let u := { helloDone with program := [.ht 0x00000001#32] }
    s.state = .done ∧ step s = .next (nextOf (step s)) ∧ (nextOf (step s)).state = .done ∧
    u.state = .done ∧ step u = .next (nextOf (step u)) ∧ (nextOf (step u)).state ≠ .done :=
  ⟨rfl, goes (by decide), by decide, rfl, goes (by decide), by decide⟩
/-- FRAME_LEN and FRAME_BUF at an engine step, at FINISH, at a BUILD and at a RST. -/
theorem witness_frameChanges :
    let u := { helloDone with program := [.ht 0x00000001#32] }
    let v := { helloDone with program := [.ht 0x80000000#32] }
    (step (atStep 1#4 0) = .next (nextOf (step (atStep 1#4 0))) ∧
      (nextOf (step (atStep 1#4 0))).frameBuf ≠ (atStep 1#4 0).frameBuf) ∧
    (step (atStep 8#4 68) = .next (nextOf (step (atStep 8#4 68))) ∧
      (nextOf (step (atStep 8#4 68))).frameLen ≠ (atStep 8#4 68).frameLen) ∧
    (step u = .next (nextOf (step u)) ∧ (nextOf (step u)).frameLen ≠ u.frameLen) ∧
    (step v = .next (nextOf (step v)) ∧ (nextOf (step v)).frameBuf ≠ v.frameBuf) :=
  ⟨⟨goes (by decide), by decide⟩, ⟨goes (by decide), by decide⟩, ⟨goes (by decide), by decide⟩,
    ⟨goes (by decide), by decide⟩⟩
/-- A write dropped, and DROP cleared by a RST. -/
theorem witness_drop :
    let s := { both with schedule := [.host] }
    let u := { helloDone with drop := true, program := [.ht 0x80000000#32] }
    step s = .next (nextOf (step s)) ∧ s.drop = false ∧ (nextOf (step s)).drop = true ∧
    step u = .next (nextOf (step u)) ∧ u.drop = true ∧ (nextOf (step u)).drop = false :=
  ⟨goes (by decide), rfl, by decide, goes (by decide), rfl, by decide⟩

/-! ## Witnesses: the engine's delay -/

theorem run_succ {n : Nat} {s t : State} (h : step s = .next t) : core.run (n + 1) s = core.run n t := by
  have : core.step s = .next t := h
  simp only [Host.Core.run, this]

/-- The ended run stays, however many steps are taken. -/
theorem run_helloDone (n : Nat) : core.run n helloDone = .next helloDone := by
  induction n with
  | zero => rfl
  | succ n ih => rw [run_succ (t := helloDone) rfl, ih]

/-- P1's build runs for more steps than its delay, whatever that free value is. -/
theorem witness_engineDelay :
    engineDelay (atStep 1#4 0) < engineDelay (atStep 1#4 0) + 8 ∧
    core.run (engineDelay (atStep 1#4 0) + 8) (atStep 1#4 0) = .next helloDone := by
  generalize engineDelay (atStep 1#4 0) = n
  refine ⟨by omega, ?_⟩
  rw [run_succ (t := atStep 2#4 8) rfl, run_succ (t := atStep 3#4 9) rfl,
    run_succ (t := atStep 4#4 33) rfl, run_succ (t := atStep 5#4 45) rfl,
    run_succ (t := atStep 6#4 59) rfl, run_succ (t := atStep 7#4 65) rfl,
    run_succ (t := atStep 8#4 68) rfl, run_succ (t := helloDone) rfl, run_helloDone]

/-! ## Witnesses: the consumer -/

theorem witness_consumerSends :
    let s (port : List WriteAnswer) := withConsumer (.sending helloFrame) port .succeeds
    (s []).consumer.phase = .sending helloFrame ∧
    (s [⟨68, []⟩]).consumer.port = ⟨(helloFrame.length : Int), []⟩ :: [] ∧
    (67 : Int) ≠ (helloFrame.length : Int) ∧ (69 : Int) ≠ (helloFrame.length : Int) ∧
    (-1 : Int) ≠ (helloFrame.length : Int) ∧
    (s [⟨69, noDevice⟩]).consumer.port = ⟨69, noDevice⟩ :: [] ∧
    (s []).consumer.port = [] ∧ (s []).consumer.rest = .succeeds ∧
    (withConsumer (.sending helloFrame) [] .blocks).consumer.rest = .blocks := by decide
/-- A failed loop, and a step of the machine after it. -/
theorem witness_consumerFailed :
    let s := withConsumer (.failed helloFrame 67 noDevice) [] .succeeds
    s.consumer.phase = .failed helloFrame 67 noDevice ∧ step s = .next s := ⟨rfl, rfl⟩
/-- The consumer alone, and beside a host and a build with the schedule naming it. -/
theorem witness_consumerMoves :
    let s := withConsumer .readLo [] .blocks
    let u := { s with program := [.ht 0x40010000#32], schedule := [.consumer] }
    let v := { u with state := .busy, seq := 1#4 }
    (programOk s.program = true ∧ consumerReady s = true ∧ s.program = [] ∧ s.state ≠ .busy) ∧
    (programOk u.program = true ∧ consumerReady u = true ∧ u.schedule = .consumer :: [] ∧
      u.program ≠ []) ∧
    (programOk v.program = true ∧ consumerReady v = true ∧ v.schedule = .consumer :: [] ∧
      v.state = .busy) := by decide
theorem witness_consumerCopies :
    let s (n : Nat) := withConsumer (.copying 68 (helloFrame.take n)) [] .blocks
    ∀ n ∈ [0, 67, 68], (s n).state = .done ∧ (s n).frameLen.toNat ≤ (s n).params.bufCap ∧
      (s n).params.bufCap ≤ 3072 ∧
      (s n).consumer.phase = .copying (s n).frameLen.toNat (helloFrame.take n) ∧
      ((helloFrame.take n).length < (s n).frameLen.toNat →
        Memory.read (s n).frameBuf (helloFrame.take n).length = helloFrame[n]?) := by decide
/-- The consumer before its copy, and its steps up to it. -/
theorem witness_consumerReads :
    let s (p : ConsumerPhase) := withConsumer p [] .blocks
    (s .waiting).consumer.phase = .waiting ∧ (s .waiting).state = .done ∧
    consumerStep (s .waiting) = .next (s .readLo) ∧
    consumerStep (s .readLo) = .next (s (.readHi 0x44#8)) ∧
    (s (.readHi 0x44#8)).frameLen = (s .readLo).frameLen := ⟨rfl, rfl, rfl, rfl, rfl⟩

end Sys2Proof.Tests
end

section
/-! PROOFS. The statements about the state (10_state.md): the reset values, the output signals, and the
invariants every step keeps. -/

namespace Sys2Proof.Machine

open Sys2Proof.Config

/-! ## Fields that a store and written bytes leave alone -/

@[simp] theorem store_seq (a : Addr) (d : Byte) (s : State) : (s.store a d).seq = s.seq := by
  rw [store_frame]

@[simp] theorem store_drop (a : Addr) (d : Byte) (s : State) : (s.store a d).drop = s.drop := by
  rw [store_frame]

@[simp] theorem store_consumer (a : Addr) (d : Byte) (s : State) :
    (s.store a d).consumer = s.consumer := by rw [store_frame]

@[simp] theorem pushAll_state (bs : List Byte) (s : State) : (pushAll bs s).state = s.state := by
  rw [pushAll_frame]

@[simp] theorem pushAll_drop (bs : List Byte) (s : State) : (pushAll bs s).drop = s.drop := by
  rw [pushAll_frame]

@[simp] theorem pushAll_consumer (bs : List Byte) (s : State) :
    (pushAll bs s).consumer = s.consumer := by rw [pushAll_frame]

/-! ## The block's own part of the state (R21) -/

/-- The state with the host's, the consumer's and the schedule's fields as they are at reset: what is
left to differ is the block's own (R21) and its parameters (R7). -/
def State.block (s : State) : State :=
  { s with
    program := [], trace := [], draws := 0, schedule := [], turn := 0, waited := 0
    consumer := Consumer.none }

@[simp] theorem State.block_seq (s : State) : s.block.seq = s.seq := rfl
@[simp] theorem State.block_state (s : State) : s.block.state = s.state := rfl
@[simp] theorem State.block_drop (s : State) : s.block.drop = s.drop := rfl

theorem store_block (a : Addr) (d : Byte) (s : State) : (s.store a d).block = s.block.store a d := by
  simp only [State.store]
  repeat' split
  all_goals rfl

theorem pushAll_block (bs : List Byte) (s : State) : (pushAll bs s).block = pushAll bs s.block := by
  induction bs generalizing s with
  | nil => rfl
  | cons b bs ih => exact ih _

theorem memInv_block {s : State} : MemInv s.block ↔ MemInv s :=
  ⟨fun ⟨h1, h2, h3, h4, h5, h6⟩ => ⟨h1, h2, h3, h4, h5, h6⟩,
    fun ⟨h1, h2, h3, h4, h5, h6⟩ => ⟨h1, h2, h3, h4, h5, h6⟩⟩

theorem controlInv_block {s : State} : ControlInv s.block ↔ ControlInv s :=
  ⟨fun ⟨h1, h2, h3, h4, h5, h6, h7, h8⟩ => ⟨h1, h2, h3, h4, h5, h6, h7, h8⟩,
    fun ⟨h1, h2, h3, h4, h5, h6, h7, h8⟩ => ⟨h1, h2, h3, h4, h5, h6, h7, h8⟩⟩

theorem frameInv_block {s : State} : FrameInv s.block ↔ FrameInv s :=
  ⟨fun ⟨h1, h2⟩ => ⟨h1, h2⟩, fun ⟨h1, h2⟩ => ⟨h1, h2⟩⟩

/-! ## The frame, cut into the bytes of the engine's steps (R111, R132) -/

/-- The bytes of the steps 1 to 7 in order, nothing standing for a byte that an unwritten descriptor
cell would give (R111, R164). -/
def frameChunks (s : State) : List (List (Option Byte)) :=
  [capHdrBytes.map some, (rateBytes s.rateCode).map some, (mgmtHdrBytes s.apMac).map some,
    bodyBytes.map some,
    some eidSsid :: some s.ssidLen :: cells s.ssid s.ssidLen.toNat,
    some eidRates :: some s.ratesLen :: cells s.rates s.ratesLen.toNat,
    [some eidDs, some dsLen, some s.channel]]

theorem expectedFrame_eq_flatten (s : State) : expectedFrame s = (frameChunks s).flatten := by
  simp [expectedFrame, frameChunks]

/-- The start offset of step `k + 1` is the length of the bytes of the steps before it (R132). -/
theorem startOffset_toNat {q : StepCode} {k : Nat} (s : State) (hq : q.toNat = k + 1) (hk : k ≤ 7) :
    (startOffset q s).toNat = ((frameChunks s).take k).flatten.length := by
  have hs := s.ssidLen.isLt
  have hr := s.ratesLen.isLt
  obtain rfl : q = BitVec.ofNat 4 (k + 1) := by
    apply BitVec.eq_of_toNat_eq; rw [hq, BitVec.toNat_ofNat]; omega
  interval_cases k <;>
    simp [startOffset, frameChunks, capHdrBytes, rateBytes, mgmtHdrBytes, bodyBytes, le16, le32, rep,
      frameLength_toNat] <;> omega

theorem expectedFrame_length (s : State) : (expectedFrame s).length = (frameLength s).toNat := by
  have hend : startOffset 8#4 s = frameLength s := by simp [startOffset]
  have hall : (frameChunks s).take 7 = frameChunks s := List.take_of_length_le le_rfl
  rw [expectedFrame_eq_flatten, ← hend, startOffset_toNat s (k := 7) rfl le_rfl, hall]

/-- An entry of the `k`-th of some joined lists stands after all of the lists before it. -/
theorem flatten_getElem?_of_take {α : Type} {L : List (List α)} {l : List α} {k j : Nat}
    (hl : L[k]? = some l) (hj : j < l.length) :
    L.flatten[(L.take k).flatten.length + j]? = l[j]? := by
  obtain ⟨hk, rfl⟩ := List.getElem?_eq_some_iff.mp hl
  have hsplit : L.flatten = (L.take k).flatten ++ (L[k] ++ (L.drop (k + 1)).flatten) := by
    rw [← List.flatten_cons, ← List.drop_eq_getElem_cons hk, ← List.flatten_append,
      List.take_append_drop]
  rw [hsplit, List.getElem?_append_right (Nat.le_add_right _ _), Nat.add_sub_cancel_left,
    List.getElem?_append_left hj]

/-- `bs` are the bytes of the step SEQ names, and `q` is the step after it (R163, R170 to R176). -/
structure WritesChunk (s : State) (q : StepCode) (bs : List Byte) (k : Nat) : Prop where
  seq : s.seq.toNat = k + 1
  next : q.toNat = k + 2
  chunk : (frameChunks s)[k]? = some (bs.map some)

namespace WritesChunk

variable {s : State} {q : StepCode} {bs : List Byte} {k : Nat}

/-- The step `k + 1`, where its bytes are the frame's. -/
theorem of_seq (hs : s.seq = BitVec.ofNat 4 (k + 1)) (hc : (frameChunks s)[k]? = some (bs.map some)) :
    WritesChunk s (BitVec.ofNat 4 (k + 2)) bs k := by
  have hk : k < 7 := (List.getElem?_eq_some_iff.mp hc).1
  refine ⟨?_, ?_, hc⟩ <;> simp only [hs, BitVec.toNat_ofNat] <;> omega

theorem lt (h : WritesChunk s q bs k) : k < 7 := (List.getElem?_eq_some_iff.mp h.chunk).1

/-- A step's bytes stand in the frame from its start offset on. -/
theorem expectedFrame_getElem? (h : WritesChunk s q bs k) {j : Nat} (hj : j < bs.length) :
    (expectedFrame s)[(startOffset s.seq s).toNat + j]? = some bs[j]? := by
  rw [startOffset_toNat s h.seq h.lt.le, expectedFrame_eq_flatten,
    flatten_getElem?_of_take h.chunk (by simpa using hj)]
  simp [hj]

/-- The next step starts where a step's bytes end. -/
theorem startOffset_next (h : WritesChunk s q bs k) :
    (startOffset q s).toNat = (startOffset s.seq s).toNat + bs.length := by
  obtain ⟨hk, hc⟩ := List.getElem?_eq_some_iff.mp h.chunk
  rw [startOffset_toNat s h.next h.lt, startOffset_toNat s h.seq h.lt.le,
    List.take_succ_eq_append_getElem hk, hc]
  simp

end WritesChunk

/-- A payload's cells with its element's head are its bytes, where each cell is written. -/
theorem element_eq_map {m : Memory} {id n : Byte} {p : List Byte} (h : Holds m n p) :
    some id :: some n :: cells m n.toNat = (id :: n :: p).map some := by
  rw [show cells m n.toNat = p.map some from h]; rfl

/-- All the step SEQ names can do when it answers a next state: it writes its bytes and names the step
after it, or it is step 8 and publishes (R163, R177). -/
theorem exec_seq_next {s t : State} {i : Instr} (hq : decodeSeq s.seq = .ok i)
    (h : exec i s = .next t) :
    (∃ bs q k, WritesChunk s q bs k ∧ Fits bs.length s ∧ t = (pushAll bs s).setSeq q) ∨
      (s.seq = 8#4 ∧ s.cur = s.len ∧ t = publish s) := by
  have hseq := decodeSeq_ok hq
  cases engine_next hq h with
  | publishes hi hc ht => subst hi; exact .inr ⟨by simpa using hseq, hc, ht⟩
  | writes bs q _ hf ht hi =>
    left
    rcases hi with ⟨rfl, rfl, rfl⟩ | ⟨rfl, rfl, rfl⟩ | ⟨rfl, rfl, rfl⟩ | ⟨rfl, rfl, rfl⟩ |
      ⟨rfl, rfl, p, rfl, hp⟩ | ⟨rfl, rfl, p, rfl, hp⟩ | ⟨rfl, rfl, rfl⟩
    · exact ⟨_, _, 0, .of_seq (by simpa using hseq) rfl, hf, ht⟩
    · exact ⟨_, _, 1, .of_seq (by simpa using hseq) rfl, hf, ht⟩
    · exact ⟨_, _, 2, .of_seq (by simpa using hseq) rfl, hf, ht⟩
    · exact ⟨_, _, 3, .of_seq (by simpa using hseq) rfl, hf, ht⟩
    · exact ⟨_, _, 4, .of_seq (by simpa using hseq) (congrArg some (element_eq_map hp)), hf, ht⟩
    · exact ⟨_, _, 5, .of_seq (by simpa using hseq) (congrArg some (element_eq_map hp)), hf, ht⟩
    · exact ⟨_, _, 6, .of_seq (by simpa using hseq) rfl, hf, ht⟩

/-! ## What a step does to the block -/

/-- All a step can do to the block when it answers a next state, by the named update of it. -/
inductive BlockStep (s t : State) : Prop where
  /-- Nothing: a RD, a WAIT, a NOP, an ignored WR, RDFRAME's last part, the consumer, or nobody. -/
  | still (ht : t.block = s.block)
  /-- A WR dropped while BUSY (R145). -/
  | drop (w : HTWord) (rest : List HostItem) (a : Addr) (d : Byte) (hp : s.program = .ht w :: rest)
      (hw : decodeHT w = .ok (.wr a d)) (hb : s.state = .busy) (ht : t.block = s.dropWrite.block)
  /-- A configuration write (R142). -/
  | store (a : Addr) (d : Byte) (hb : s.state ≠ .busy) (ht : t.block = (s.store a d).block)
  /-- A command that fails (R206). -/
  | error (w : HTWord) (rest : List HostItem) (c : ErrCode) (d : Byte) (hp : s.program = .ht w :: rest)
      (hw : decodeHT w = .ok (.wr 0x000#12 d)) (hd : d ≠ 0x00#8) (hb : s.state ≠ .busy) (hc : c ≠ .none)
      (ht : t.block = (raiseError c s).block)
  /-- An accepted BUILD (R152). -/
  | build (w : HTWord) (rest : List HostItem) (hp : s.program = .ht w :: rest)
      (hw : decodeHT w = .ok (.wr 0x000#12 0x01#8)) (hb : s.state ≠ .busy)
      (hch : s.params.checkChannel = true → s.channel ≠ 0#8)
      (hl : (frameLength s).toNat ≤ s.params.bufCap) (ht : t.block = (acceptBuild s).block)
  /-- A RST (R146). -/
  | reset (w : HTWord) (rest : List HostItem) (hp : s.program = .ht w :: rest)
      (hw : decodeHT w = .ok .rst) (ht : t.block = s.resetBlock.block)
  /-- An engine step that writes its bytes and names the next step (R163). -/
  | write (bs : List Byte) (q : StepCode) (k : Nat) (hb : s.state = .busy) (hw : WritesChunk s q bs k)
      (hf : Fits bs.length s) (ht : t.block = ((pushAll bs s).setSeq q).block)
  /-- FINISH (R177). -/
  | publish (hb : s.state = .busy) (hq : s.seq = 8#4) (hc : s.cur = s.len)
      (ht : t.block = (publish s).block)

/-- A state with other schedule fields, these written out. -/
theorem Scheduled.exists_eq {s u : State} (h : Scheduled s u) :
    ∃ sch n k, u = { s with schedule := sch, turn := n, waited := k } := ⟨_, _, _, h⟩

theorem blockStep_of_host {s u t : State} {w : HTWord} {rest : List HostItem} {i : Instr}
    (hu : Scheduled s u) (hp : s.program = .ht w :: rest) (hw : decodeHT w = .ok i)
    (h : exec i u = .next t) : BlockStep s t := by
  obtain ⟨sch, n, k, rfl⟩ := hu.exists_eq
  cases host_next hw h with
  | keep m tr ht _ => exact .still (by rw [ht]; rfl)
  | hold _ _ ht => exact .still (by rw [ht]; rfl)
  | drop a d hi hb ht => exact .drop w rest a d hp (hi ▸ hw) hb (by rw [ht]; rfl)
  | ignore a d _ _ ht => exact .still (by rw [ht]; rfl)
  | store a d _ hb _ ht =>
    refine .store a d hb ?_
    rw [ht, store_block]
    exact store_block a d _
  | error c d hi hd hb hc ht => exact .error w rest c d hp (hi ▸ hw) hd hb hc (by rw [ht]; rfl)
  | build hi hb hch hl ht => exact .build w rest hp (hi ▸ hw) hb hch hl (by rw [ht]; rfl)
  | reset hi ht => exact .reset w rest hp (hi ▸ hw) (by rw [ht]; rfl)

theorem blockStep_of_engine {s u t : State} {i : Instr} (hu : Scheduled s u) (hb : s.state = .busy)
    (hq : decodeSeq s.seq = .ok i) (h : exec i u = .next t) : BlockStep s t := by
  obtain ⟨sch, n, m, rfl⟩ := hu.exists_eq
  rcases exec_seq_next (s := { s with schedule := sch, turn := n, waited := m }) hq h with
    ⟨bs, q, k, ⟨h1, h2, h3⟩, hf, ht⟩ | ⟨h8, hc, ht⟩
  · refine .write bs q k hb ⟨h1, h2, h3⟩ hf ?_
    have hbl : (pushAll bs { s with schedule := sch, turn := n, waited := m }).block =
        (pushAll bs s).block := by rw [pushAll_block, pushAll_block]; rfl
    rw [ht]
    exact congrArg (State.setSeq q) hbl
  · exact .publish hb h8 hc (by rw [ht]; rfl)

/-- All a step can do to the block (R73). -/
theorem step_block {s t : State} (h : step s = .next t) : BlockStep s t := by
  cases step_cases s with
  | host u w rest i hu hp hw _ ho => exact blockStep_of_host hu hp hw (ho ▸ h)
  | frameBytes u rest hu _ ho =>
    rcases expandFrameBytes_cases u with e | ⟨items, e⟩
    · simp [ho, e] at h
    · rw [ho, e, Host.Outcome.next.injEq] at h
      exact .still (by rw [← h, hu]; rfl)
  | engine u i hu hb hq ho => exact blockStep_of_engine hu hb hq (ho ▸ h)
  | badSeq _ _ ho => simp [ho] at h
  | consumer u hu ho =>
    have ht : t = { u with consumer := t.consumer, draws := t.draws } := consumerStep_next (ho ▸ h)
    exact .still (by rw [ht, hu]; rfl)
  | idle ho =>
    rw [ho, Host.Outcome.next.injEq] at h
    exact .still (by rw [h])
  | malformed ho => simp [ho] at h

/-! ## What a step does to the consumer -/

/-- The consumer changes by its own steps alone (R228). -/
theorem step_consumer {s t : State} (h : step s = .next t) :
    t.consumer = s.consumer ∨ ∃ u, Scheduled s u ∧ consumerStep u = .next t := by
  cases step_cases s with
  | host u w rest i hu _ hw _ ho =>
    left
    obtain ⟨sch, n, k, rfl⟩ := hu.exists_eq
    cases host_next hw (ho ▸ h) with
    | store a d _ _ _ ht => rw [ht, State.advance_consumer, store_consumer]
    | keep _ _ ht | hold _ _ ht | drop _ _ _ _ ht | ignore _ _ _ _ ht | error _ _ _ _ _ _ ht
    | build _ _ _ _ ht | reset _ ht => subst ht; rfl
  | frameBytes u rest hu _ ho =>
    rcases expandFrameBytes_cases u with e | ⟨items, e⟩
    · simp [ho, e] at h
    · rw [ho, e, Host.Outcome.next.injEq] at h
      exact .inl (by rw [← h, hu])
  | engine u i hu _ hq ho =>
    left
    cases engine_next hq (ho ▸ h) with
    | writes bs q _ _ ht _ => rw [ht, State.setSeq_consumer, pushAll_consumer, hu]
    | publishes _ _ ht => rw [ht, publish_consumer, hu]
  | badSeq _ _ ho => simp [ho] at h
  | consumer u hu ho => exact .inr ⟨u, hu, ho ▸ h⟩
  | idle ho =>
    rw [ho, Host.Outcome.next.injEq] at h
    exact .inl (by rw [h])
  | malformed ho => simp [ho] at h

/-! ## States with the same block meet the same invariants -/

theorem MemInv.of_block {s t : State} (ht : t.block = s.block) (h : MemInv s) : MemInv t :=
  memInv_block.mp (ht ▸ memInv_block.mpr h)

theorem ControlInv.of_block {s t : State} (ht : t.block = s.block) (h : ControlInv s) : ControlInv t :=
  controlInv_block.mp (ht ▸ controlInv_block.mpr h)

theorem FrameInv.of_block {s t : State} (ht : t.block = s.block) (h : FrameInv s) : FrameInv t :=
  frameInv_block.mp (ht ▸ frameInv_block.mpr h)

/-! ## The byte arrays -/

theorem memInv_resetBlock (s : State) : MemInv s.resetBlock := by
  constructor <;> simp

theorem memInv_write {s : State} {bs : List Byte} (q : StepCode) (h : MemInv s)
    (hf : Fits bs.length s) : MemInv ((pushAll bs s).setSeq q) := by
  obtain ⟨h1, h2, h3, h4, h5, h6⟩ := h
  have hwf := pushAll_wf bs h5
  have hbd := pushAll_bound bs h6 hf.2 hf.small
  rw [pushAll_frame]
  exact ⟨h1, h2, h3, h4, hwf, hbd⟩

theorem step_memInv {s t : State} (h : MemInv s) (hs : step s = .next t) : MemInv t := by
  cases step_block hs with
  | still ht => exact h.of_block ht
  | store a d _ ht => exact (store_memInv h).of_block ht
  | reset _ _ _ _ ht => exact (memInv_resetBlock s).of_block ht
  | write bs q k _ _ hf ht => exact (memInv_write q h hf).of_block ht
  | drop _ _ _ _ _ _ _ ht | error _ _ _ _ _ _ _ _ _ ht | build _ _ _ _ _ _ _ ht
  | publish _ _ _ ht =>
    exact .of_block ht
      ⟨h.ssidWf, h.ssidBound, h.ratesWf, h.ratesBound, h.frameWf, h.frameBound⟩

/-! ## The control and status registers -/

/-- Outside BUSY and DONE the invariant asks for SEQ, FRAME_LEN and ERR alone. -/
theorem controlInv_at_rest {s : State} (hl : s.params.legal) (hb : s.state ≠ .busy)
    (hd : s.state ≠ .done) (hseq : s.seq = 0#4) (hlen : s.frameLen = 0#16)
    (herr : s.err ≠ .none ↔ s.state = .error) : ControlInv s where
  legal := hl
  busySeq := by simp [hb, hseq]
  restSeq _ := hseq
  busyLen h := absurd h hb
  busyChannel h := absurd h hb
  doneLen h := absurd h hd
  restLen _ := hlen
  errState := herr

theorem controlInv_dropWrite {s : State} (h : ControlInv s) : ControlInv s.dropWrite := by
  obtain ⟨h1, h2, h3, h4, h5, h6, h7, h8⟩ := h
  exact ⟨h1, h2, h3, h4, h5, h6, h7, h8⟩

/-- Outside BUSY no clause of the invariant speaks of the configuration. -/
theorem controlInv_store {s : State} (a : Addr) (d : Byte) (hb : s.state ≠ .busy) (h : ControlInv s) :
    ControlInv (s.store a d) := by
  rw [store_frame]
  exact ⟨h.legal, h.busySeq, h.restSeq, (absurd · hb), (absurd · hb), h.doneLen, h.restLen, h.errState⟩

theorem controlInv_acceptBuild {s : State} (hl : s.params.legal)
    (hch : s.params.checkChannel = true → s.channel ≠ 0#8)
    (hcap : (frameLength s).toNat ≤ s.params.bufCap) : ControlInv (acceptBuild s) where
  legal := hl
  busySeq := by simp
  restSeq h := absurd rfl h
  busyLen _ := ⟨rfl, hcap, rfl⟩
  busyChannel _ := hch
  doneLen h := by simp at h
  restLen _ := rfl
  errState := by simp

theorem ControlInv.err_of_busy {s : State} (h : ControlInv s) (hb : s.state = .busy) : s.err = .none := by
  by_contra he
  have := h.errState.mp he
  simp [hb] at this

/-- A step that writes its bytes ends at the start offset of the step it names (R132). -/
theorem pushAll_cur_eq_startOffset {s : State} {q : StepCode} {bs : List Byte} {k : Nat}
    (hcur : s.cur = startOffset s.seq s) (hw : WritesChunk s q bs k) (hf : Fits bs.length s) :
    (pushAll bs s).cur = startOffset q s := by
  apply BitVec.eq_of_toNat_eq
  rw [pushAll_cur bs s hf.small, hw.startOffset_next, hcur]

theorem controlInv_write {s : State} {q : StepCode} {bs : List Byte} {k : Nat} (h : ControlInv s)
    (hb : s.state = .busy) (hw : WritesChunk s q bs k) (hf : Fits bs.length s) :
    ControlInv ((pushAll bs s).setSeq q) := by
  obtain ⟨hlen, hcap, hcur⟩ := h.busyLen hb
  have hend := pushAll_cur_eq_startOffset hcur hw hf
  have hq := hw.next
  have hk := hw.lt
  rw [pushAll_frame]
  exact
    { legal := h.legal
      busySeq := by simp only [State.setSeq_state, State.setSeq_seq, hb, true_iff]; omega
      restSeq := fun hn => absurd hb hn
      busyLen := fun _ => ⟨hlen, hcap, hend⟩
      busyChannel := h.busyChannel
      doneLen := h.doneLen
      restLen := h.restLen
      errState := h.errState }

theorem controlInv_publish {s : State} (h : ControlInv s) (hb : s.state = .busy) :
    ControlInv (publish s) := by
  obtain ⟨hlen, hcap, -⟩ := h.busyLen hb
  have hl := frameLength_toNat s
  have hs := s.ssidLen.isLt
  have hr := s.ratesLen.isLt
  exact
    { legal := h.legal
      busySeq := by simp
      restSeq := fun _ => rfl
      busyLen := fun hp => by simp at hp
      busyChannel := fun hp => by simp at hp
      doneLen := fun _ => by
        simp only [publish_frameLen, publish_len, publish_params, hlen, true_and]
        exact ⟨by omega, by omega, hlen ▸ hcap⟩
      restLen := fun hn => absurd rfl hn
      errState := by simp [h.err_of_busy hb] }

theorem step_controlInv {s t : State} (h : ControlInv s) (hs : step s = .next t) : ControlInv t := by
  cases step_block hs with
  | still ht => exact h.of_block ht
  | drop _ _ _ _ _ _ _ ht => exact (controlInv_dropWrite h).of_block ht
  | store a d hb ht => exact (controlInv_store a d hb h).of_block ht
  | error _ _ c _ _ _ _ _ hc ht =>
    exact (controlInv_at_rest (s := raiseError c s) h.legal (by simp) (by simp) rfl rfl
      (by simp [hc])).of_block ht
  | build _ _ _ _ _ hch hl ht => exact (controlInv_acceptBuild h.legal hch hl).of_block ht
  | reset _ _ _ _ ht =>
    exact (controlInv_at_rest (s := s.resetBlock) h.legal (by simp) (by simp) rfl rfl
      (by simp)).of_block ht
  | write bs q k hb hw hf ht => exact (controlInv_write h hb hw hf).of_block ht
  | publish hb _ _ ht => exact (controlInv_publish h hb).of_block ht

/-! ## The frame -/

/-- Where neither BUSY nor DONE, or at the start of a build, the invariant asks for nothing. -/
theorem frameInv_of_nothing_written {s : State} (hb : s.state = .busy → s.cur = 0#16)
    (hd : s.state ≠ .done) : FrameInv s where
  busyBytes h i hi := by simp [hb h] at hi
  doneFrame h := absurd h hd

theorem frameInv_dropWrite {s : State} (h : FrameInv s) : FrameInv s.dropWrite := by
  obtain ⟨h1, h2⟩ := h
  exact ⟨h1, h2⟩

/-- Outside BUSY no clause of the invariant speaks of the configuration. -/
theorem frameInv_store {s : State} (a : Addr) (d : Byte) (hb : s.state ≠ .busy) (h : FrameInv s) :
    FrameInv (s.store a d) := by
  rw [store_frame]
  exact ⟨(absurd · hb), h.doneFrame⟩

/-- After a step's bytes each cell below the new CUR holds the frame's byte (R182). -/
theorem pushAll_read_expected {s : State} {q : StepCode} {bs : List Byte} {k : Nat} (h : FrameInv s)
    (hb : s.state = .busy) (hcur : s.cur = startOffset s.seq s) (hw : WritesChunk s q bs k)
    (hf : Fits bs.length s) {i : Nat} (hi : i < (pushAll bs s).cur.toNat) :
    ∃ b, Memory.read (pushAll bs s).frameBuf i = some b ∧ (expectedFrame s)[i]? = some (some b) := by
  rw [pushAll_cur bs s hf.small] at hi
  rw [pushAll_read bs s hf.small]
  by_cases hlo : i < s.cur.toNat
  · rw [if_neg (by omega)]
    exact h.busyBytes hb i hlo
  · obtain ⟨j, rfl⟩ := Nat.exists_eq_add_of_le (not_lt.mp hlo)
    have hj : j < bs.length := by omega
    refine ⟨bs[j], ?_, ?_⟩
    · rw [if_pos ⟨by omega, hi⟩, Nat.add_sub_cancel_left, List.getElem?_eq_getElem hj]
    · rw [hcur, hw.expectedFrame_getElem? hj, List.getElem?_eq_getElem hj]

theorem frameInv_write {s : State} {q : StepCode} {bs : List Byte} {k : Nat} (h : FrameInv s)
    (hb : s.state = .busy) (hcur : s.cur = startOffset s.seq s) (hw : WritesChunk s q bs k)
    (hf : Fits bs.length s) : FrameInv ((pushAll bs s).setSeq q) := by
  have hbytes := fun i => pushAll_read_expected (i := i) h hb hcur hw hf
  rw [pushAll_frame]
  exact ⟨fun _ i hi => hbytes i hi, fun hd => by simp [hb] at hd⟩

/-- Cells that are all written hold bytes. -/
theorem exists_holds {m : Memory} {n : Byte} (h : ∀ v ∈ cells m n.toNat, v ≠ none) :
    ∃ bs, Holds m n bs := by
  have hr : ∀ v ∈ cells m n.toNat, v ∈ Set.range (some : Byte → Option Byte) := fun v hv =>
    Option.ne_none_iff_exists.mp (h v hv)
  obtain ⟨bs, hbs⟩ : cells m n.toNat ∈ Set.range (List.map some) := by
    rw [Set.range_list_map]; exact hr
  exact ⟨bs, hbs.symm⟩

theorem Holds.length {m : Memory} {n : Byte} {bs : List Byte} (h : Holds m n bs) :
    bs.length = n.toNat := by simpa using (congrArg List.length h).symm

/-- The frame of a configuration whose descriptor cells are written is BuildFrame of its bytes (R180). -/
theorem expectedFrame_eq_buildFrame {s : State} {ssid rates : List Byte}
    (hs : Holds s.ssid s.ssidLen ssid) (hr : Holds s.rates s.ratesLen rates) :
    expectedFrame s = (buildFrame s.rateCode s.channel s.apMac ssid rates).map some := by
  have hsl : BitVec.ofNat 8 ssid.length = s.ssidLen := by simp [hs.length]
  have hrl : BitVec.ofNat 8 rates.length = s.ratesLen := by simp [hr.length]
  unfold Holds at hs hr
  unfold buildFrame
  simp only [expectedFrame, capHdrBytes, rateBytes, mgmtHdrBytes, bodyBytes, hs, hr, hsl, hrl,
    List.map_append, List.append_assoc]
  rfl

/-- At the end of a build the cells below LEN are the frame of the configuration. -/
theorem cells_eq_expectedFrame {s : State} (hf : FrameInv s) (hb : s.state = .busy)
    (hc : s.cur = s.len) (hlen : s.len = frameLength s) :
    cells s.frameBuf s.len.toNat = expectedFrame s := by
  refine List.ext_getElem? fun i => ?_
  rw [cells_getElem?]
  split
  case isTrue hi =>
    obtain ⟨b, hread, hexp⟩ := hf.busyBytes hb i (hc ▸ hi)
    rw [hread, hexp]
  case isFalse hi =>
    rw [List.getElem?_eq_none]
    rw [expectedFrame_length, ← hlen]
    omega

theorem frameInv_publish {s : State} (h : FrameInv s) (hctl : ControlInv s) (hb : s.state = .busy)
    (hc : s.cur = s.len) : FrameInv (publish s) := by
  obtain ⟨hlen, -, -⟩ := hctl.busyLen hb
  have hcells := cells_eq_expectedFrame h hb hc hlen
  have hwritten : ∀ v ∈ expectedFrame s, v ≠ none := by
    intro v hv
    obtain ⟨i, hi, rfl⟩ := List.getElem_of_mem hv
    obtain ⟨b, -, hexp⟩ := h.busyBytes hb i (by rw [hc, hlen, ← expectedFrame_length]; exact hi)
    simp [(List.getElem?_eq_some_iff.mp hexp).2]
  obtain ⟨ssid, hs⟩ := exists_holds (m := s.ssid) (n := s.ssidLen) fun v hv =>
    hwritten v (by simp [expectedFrame, hv])
  obtain ⟨rates, hr⟩ := exists_holds (m := s.rates) (n := s.ratesLen) fun v hv =>
    hwritten v (by simp [expectedFrame, hv])
  refine ⟨fun hp => by simp at hp, fun _ => ⟨s.rateCode, s.channel, s.apMac, ssid, rates,
    hctl.busyChannel hb, ?_, ?_, ?_⟩⟩
  · rw [hs.length]; have := s.ssidLen.isLt; omega
  · rw [hr.length]; have := s.ratesLen.isLt; omega
  · exact hcells.trans (expectedFrame_eq_buildFrame hs hr)

theorem step_frameInv {s t : State} (h : FrameInv s) (hctl : ControlInv s) (hs : step s = .next t) :
    FrameInv t := by
  cases step_block hs with
  | still ht => exact h.of_block ht
  | drop _ _ _ _ _ _ _ ht => exact (frameInv_dropWrite h).of_block ht
  | store a d hb ht => exact (frameInv_store a d hb h).of_block ht
  | error _ _ c _ _ _ _ _ _ ht =>
    exact (frameInv_of_nothing_written (s := raiseError c s) (by simp) (by simp)).of_block ht
  | build _ _ _ _ _ _ _ ht =>
    exact (frameInv_of_nothing_written (s := acceptBuild s) (by simp) (by simp)).of_block ht
  | reset _ _ _ _ ht =>
    exact (frameInv_of_nothing_written (s := s.resetBlock) (by simp) (by simp)).of_block ht
  | write bs q k hb hw hf ht =>
    exact (frameInv_write h hb (hctl.busyLen hb).2.2 hw hf).of_block ht
  | publish hb _ hc ht => exact (frameInv_publish h hctl hb hc).of_block ht

/-! ## The consumer -/

theorem ControlInv.frameLen_le {s : State} (h : ControlInv s) : s.frameLen.toNat ≤ 562 := by
  by_cases hd : s.state = .done
  · exact (h.doneLen hd).2.2.1
  · simp [h.restLen hd]

/-- FRAME_LEN_HI is read as the high byte of FRAME_LEN (R140). -/
theorem busRead_frameLenHi (s : State) : busRead 0x003#12 s = (hi8 s.frameLen, s) := by
  simp [busRead]

theorem hi8_toNat (v : Half) : (hi8 v).toNat = v.toNat / 256 := by
  have hv := v.isLt
  simp only [hi8, BitVec.extractLsb'_toNat, Nat.shiftRight_eq_div_pow]
  omega

@[simp] theorem State.setPhase_phase (p : ConsumerPhase) (s : State) :
    (s.setPhase p).consumer.phase = p := rfl

/-- A call of `write` starts no copy (R229 to R233). -/
theorem sendFrame_phase_ne_copying {s : State} {f got : List Byte} {size : Nat}
    (hp : s.consumer.phase = .sending f) : (sendFrame f s).consumer.phase ≠ .copying size got := by
  simp only [sendFrame]
  split
  · simp only [afterWrite]; split <;> simp
  · simp [hp]
  · simp [hp]

/-- A copy begins at the read of FRAME_LEN_HI, with the size its two halves say, and keeps it (R228). -/
theorem consumerStep_copying {s t : State} {size : Nat} {got : List Byte} (h : consumerStep s = .next t)
    (ht : t.consumer.phase = .copying size got) :
    (∃ lo : Byte, size = (hi8 s.frameLen).toNat * 256 + lo.toNat) ∨
      ∃ g, s.consumer.phase = .copying size g := by
  simp only [consumerStep] at h
  cases hp : s.consumer.phase with
  | off | failed =>
    simp only [hp, Host.Outcome.next.injEq] at h
    simp [← h, hp] at ht
  | waiting =>
    simp only [hp] at h
    split at h <;> cases h <;> simp [hp] at ht
  | readLo =>
    simp only [hp, Host.Outcome.next.injEq] at h
    simp [← h] at ht
  | readHi lo =>
    simp only [hp, Host.Outcome.next.injEq, busRead_frameLenHi] at h
    rw [← h, State.setPhase_phase, ConsumerPhase.copying.injEq] at ht
    exact .inl ⟨lo, ht.1.symm⟩
  | copying n g =>
    simp only [hp, copyByte] at h
    split_ifs at h <;> cases h <;>
      simp only [State.setPhase_phase, ConsumerPhase.copying.injEq, reduceCtorEq] at ht
    exact .inr ⟨g, by rw [ht.1]⟩
  | sending f =>
    simp only [hp, Host.Outcome.next.injEq] at h
    exact absurd (h ▸ ht) (sendFrame_phase_ne_copying hp)

theorem step_consumerInv {s t : State} (h : ConsumerInv s) (hctl : ControlInv s)
    (hs : step s = .next t) : ConsumerInv t := by
  refine ⟨fun size got ht => ?_⟩
  rcases step_consumer hs with he | ⟨u, hu, hut⟩
  · exact h.copySize size got (he ▸ ht)
  · rcases consumerStep_copying hut ht with ⟨lo, rfl⟩ | ⟨g, hg⟩
    · have hlen : u.frameLen.toNat ≤ 562 := by rw [hu]; exact hctl.frameLen_le
      have hlo := lo.isLt
      rw [hi8_toNat]
      omega
    · exact h.copySize size g (by rw [hu] at hg; exact hg)

/-! ## The statements -/

/-- Settles O51: each named update of the block keeps the arrays' form and bounds. -/
theorem stepKeepsMemory : Obligations.StepKeepsMemory :=
  fun _ _ => step_memInv

/-- Settles O52: the four invariants, each kept by every step. -/
theorem stepKeepsInvariant : Obligations.StepKeepsInvariant :=
  fun _ _ h hs => ⟨step_memInv h.mem hs, step_controlInv h.control hs,
    step_frameInv h.frame h.control hs, step_consumerInv h.consumer h.control hs⟩

/-- Settles O55, by what a step does to the block. -/
theorem seqMovesForward : Obligations.SeqMovesForward := by
  intro s t hs
  cases step_block hs with
  | still ht | drop _ _ _ _ _ _ _ ht | store _ _ _ ht =>
    exact .inl (by simpa using congrArg State.seq ht)
  | error _ _ _ _ _ _ _ _ _ ht | reset _ _ _ _ ht | publish _ _ _ ht =>
    exact .inr (.inl (by simpa using congrArg State.seq ht))
  | build _ _ _ _ hb _ _ ht =>
    exact .inr (.inr (.inl ⟨hb, congrArg State.state ht, congrArg State.seq ht⟩))
  | write bs q k hb hw _ ht =>
    have hseq : t.seq = q := by simpa using congrArg State.seq ht
    have hstate : t.state = s.state := by simpa using congrArg State.state ht
    have hk := hw.lt
    have hfrom := hw.seq
    have hto := hw.next
    exact .inr (.inr (.inr ⟨hb, hstate.trans hb, by omega, by omega, by rw [hseq]; omega⟩))

/-- Settles O58, by what a step does to the block. -/
theorem dropIsSticky : Obligations.DropIsSticky := by
  intro s t hs
  cases step_block hs with
  | drop w rest a d hp hw hb ht =>
    have hdrop : t.drop = true := congrArg State.drop ht
    exact ⟨fun _ _ => ⟨hb, w, rest, a, d, hp, hw⟩, fun _ h => by simp [hdrop] at h⟩
  | build w rest hp hw _ _ _ ht =>
    have hdrop : t.drop = false := congrArg State.drop ht
    have hbusy : t.state = .busy := congrArg State.state ht
    exact ⟨fun _ h => by simp [hdrop] at h, fun _ _ => ⟨w, rest, hp, .inl ⟨hw, hbusy⟩⟩⟩
  | reset w rest hp hw ht =>
    have hdrop : t.drop = false := congrArg State.drop ht
    exact ⟨fun _ h => by simp [hdrop] at h, fun _ _ => ⟨w, rest, hp, .inr hw⟩⟩
  | still ht | store _ _ _ ht | error _ _ _ _ _ _ _ _ _ ht | write _ _ _ _ _ _ ht | publish _ _ _ ht =>
    have hdrop : t.drop = s.drop := by simpa using congrArg State.drop ht
    exact ⟨fun h0 h1 => by simp [hdrop, h0] at h1, fun h1 h0 => by simp [hdrop, h1] at h0⟩

/-- Settles O24: each register of the reset state, as it stands there. -/
theorem resetValues : Obligations.ResetValues := by
  exact ⟨rfl, rfl, rfl, rfl, rfl, rfl, rfl, rfl, rfl, rfl, fun _ => ⟨rfl, rfl, rfl⟩⟩

/-- Settles O25: the four numbers of STATE differ. -/
theorem outputSignals : Obligations.OutputSignals := by
  intro s
  simp only [State.busyOut, State.doneOut, State.errorOut, decide_eq_true_eq]
  cases s.state <;> decide

theorem memInv_reset : MemInv State.reset := by
  constructor <;> simp [State.reset]

/-- Settles O50: IDLE with every register at 0 and no cell written. -/
theorem resetMeetsInvariant : Obligations.ResetMeetsInvariant where
  mem := memInv_resetBlock State.reset
  control := controlInv_at_rest (by decide) (by decide) (by decide) rfl rfl (by decide)
  frame := frameInv_of_nothing_written (by decide) (by decide)
  consumer := ⟨fun _ _ h => by simp [State.reset, Consumer.none] at h⟩

end Sys2Proof.Machine
end

section
/-! PROOFS. The statements about the register space and the interleaving (20_memory.md): what a RD and a
WR leave, who moves next, and what a step can do to the configuration and to the frame. -/

namespace Sys2Proof.Machine

open Sys2Proof.Config

/-! ## Who moves (R73, R74) -/

theorem engineReady_iff (s : State) : engineReady s = true ↔ s.state = .busy := by
  simp [engineReady, State.busyOut]

/-- The host is held at a WAIT while BUSY, and at no other word (R147). -/
theorem hostReady_of_word {s : State} {w : HTWord} {rest : List HostItem} {i : Instr}
    (hp : s.program = .ht w :: rest) (hw : decodeHT w = .ok i) (hi : i = .wait → s.state ≠ .busy) :
    hostReady s = true := by
  simpa [hostReady, hp, hw, State.busyOut, imp_iff_not_or] using hi

theorem preferred_of_cons {s : State} {a : Agent} {later : List Agent} (h : s.schedule = a :: later) :
    preferred s = (a, { s with schedule := later }) := by
  simp [preferred, h]

/-- A free choice moves the two choice counters alone. -/
theorem preferred_of_nil {s : State} (h : s.schedule = []) :
    (preferred s).2 = { s with turn := s.turn + 1, waited := (preferred s).2.waited } := by
  simp only [preferred, h, freeChoice]
  split <;> simp

/-- The host moves where it alone has a step. -/
theorem chooseAgent_of_host_alone {s : State} (hh : hostReady s = true) (hb : s.state ≠ .busy)
    (hc : consumerReady s = false) : chooseAgent s = some (.host, s) := by
  simp [chooseAgent, readyAgents_eq, hh, engineReady_iff, hb, hc]

/-- Where host and engine alone have a step, the engine moves if it is preferred, else the host. -/
theorem chooseAgent_of_host_engine {s : State} (hh : hostReady s = true) (hb : s.state = .busy)
    (hc : consumerReady s = false) :
    chooseAgent s = some (if (preferred s).1 = .engine then .engine else .host, (preferred s).2) := by
  have he := (engineReady_iff s).mpr hb
  have hr : readyAgents s = [.host, .engine] := by simp [readyAgents_eq, hh, he, hc]
  simp only [chooseAgent, hr]
  cases hp : (preferred s).1 with
  | host => simp [ready, hh, Prod.ext_iff, hp]
  | engine => simp [ready, he, Prod.ext_iff, hp]
  | consumer => simp [ready, hc]

/-- While BUSY some agent moves: the engine has a step (R160). -/
theorem chooseAgent_ne_none {s : State} (hb : s.state = .busy) : chooseAgent s ≠ none := by
  have he : Agent.engine ∈ readyAgents s :=
    List.mem_filter.mpr ⟨by simp, (engineReady_iff s).mpr hb⟩
  simp only [chooseAgent]
  split
  · rename_i hnil
    simp [hnil] at he
  · simp
  · split <;> simp

/-! ## What the agent that moves does -/

theorem step_of_host {s u : State} {w : HTWord} {rest : List HostItem} {i : Instr}
    (hok : programOk s.program = true) (hc : chooseAgent s = some (.host, u))
    (hp : s.program = .ht w :: rest) (hw : decodeHT w = .ok i) : step s = exec i u := by
  have hu : u.program = .ht w :: rest := by rw [(chooseAgent_some hc).2, hp]
  simp [step, fetch, hok, hc, fetchHost, hu, hw]

theorem step_of_engine {s u : State} {i : Instr} (hok : programOk s.program = true)
    (hc : chooseAgent s = some (.engine, u)) (hq : decodeSeq s.seq = .ok i) : step s = exec i u := by
  have hu : u.seq = s.seq := by rw [(chooseAgent_some hc).2]
  simp [step, fetch, hok, hc, fetchEngine, hu, hq]

/-- Settles O6: the host alone has a step, so it moves in the state as it is. -/
theorem hostStepRunsInstruction : Obligations.HostStepRunsInstruction := by
  intro s w rest i hp hok hw hb hcons
  have hh : hostReady s = true := hostReady_of_word hp hw fun _ => hb
  exact step_of_host hok (chooseAgent_of_host_alone hh hb hcons) hp hw

/-! ## The engine's delay (R258) -/

/-- A host transaction leaves the schedule and its counters alone. -/
theorem engineDelay_host {s t : State} {w : HTWord} {i : Instr} (hw : decodeHT w = .ok i)
    (h : exec i s = .next t) : engineDelay t = engineDelay s := by
  cases host_next hw h with
  | store a d _ _ _ ht => rw [ht, store_frame]; rfl
  | keep _ _ ht | hold _ _ ht | drop _ _ _ _ ht | ignore _ _ _ _ ht | error _ _ _ _ _ _ ht
  | build _ _ _ _ ht | reset _ ht => subst ht; rfl

theorem engineDelay_frameBytes {s t : State} (h : expandFrameBytes s = .next t) :
    engineDelay t = engineDelay s := by
  rcases expandFrameBytes_cases s with e | ⟨items, e⟩
  · simp [e] at h
  · rw [e, Host.Outcome.next.injEq] at h
    rw [← h]; rfl

theorem engineDelay_consumer {s t : State} (h : consumerStep s = .next t) :
    engineDelay t = engineDelay s := by
  rw [consumerStep_next h]; rfl

/-- The step taken in `s` is the engine's, the one SEQ names. -/
def EngineMoves (s : State) : Prop :=
  ∃ (i : Instr) (u : State), Scheduled s u ∧ decodeSeq s.seq = .ok i ∧ step s = exec i u

/-- While BUSY a step is the engine's, or it uses up some of the engine's delay (R258). -/
theorem engineMoves_or_delay_lt {s t : State} (hb : s.state = .busy) (h : step s = .next t) :
    EngineMoves s ∨ engineDelay t < engineDelay s := by
  by_cases hok : programOk s.program = false
  · simp [step, fetch, hok] at h
  obtain ⟨⟨a, u⟩, hc⟩ := Option.ne_none_iff_exists'.mp (chooseAgent_ne_none hb)
  obtain ⟨hr, hu⟩ := chooseAgent_some hc
  have hlt : a ≠ .engine → engineDelay u < engineDelay s := chooseAgent_delay hb hc
  have hprog : u.program = s.program := by rw [hu]
  have hseq : u.seq = s.seq := by rw [hu]
  cases a with
  | host =>
    right
    refine lt_of_eq_of_lt ?_ (hlt (by simp))
    simp only [step, fetch, hok, hc, fetchHost, hprog] at h
    cases hp : s.program with
    | nil => simp [ready, hostReady, hp] at hr
    | cons item rest =>
      cases item with
      | frameBytes => exact engineDelay_frameBytes (by simpa [hp] using h)
      | ht w =>
        cases hw : decodeHT w with
        | ok i => exact engineDelay_host hw (by simpa [hp, hw] using h)
        | malformedHT | badSeq => simp [hp, hw] at h
  | engine =>
    left
    cases hq : decodeSeq s.seq with
    | ok i => exact ⟨i, u, hu, hq, step_of_engine (by simpa using hok) hc hq⟩
    | malformedHT | badSeq => simp [step, fetch, hok, hc, fetchEngine, hseq, hq] at h
  | consumer =>
    right
    refine lt_of_eq_of_lt (engineDelay_consumer ?_) (hlt (by simp))
    simpa [step, fetch, hok, hc] using h

theorem run_succ_eq_next {n : Nat} {s t : State} :
    core.run (n + 1) s = .next t ↔ ∃ u, step s = .next u ∧ core.run n u = .next t := by
  have hcore : core.step s = step s := rfl
  simp only [Host.Core.run, hcore]
  cases step s <;> simp

/-- In a run longer than the engine's delay the build is over at some state of it, or the engine moves
(R258). -/
theorem exists_engineMoves {s t : State} {n : Nat} (hn : engineDelay s < n)
    (h : core.run n s = .next t) :
    ∃ k, k < n ∧ ∃ u : State, core.run k s = .next u ∧ (u.state ≠ .busy ∨ EngineMoves u) := by
  induction n generalizing s with
  | zero => omega
  | succ n ih =>
    obtain ⟨s1, h1, hrun⟩ := run_succ_eq_next.mp h
    by_cases hb : s.state = .busy
    · rcases engineMoves_or_delay_lt hb h1 with he | hlt
      · exact ⟨0, by omega, s, rfl, .inr he⟩
      · obtain ⟨k, hk, u, hu, hcase⟩ := ih (by omega) hrun
        exact ⟨k + 1, by omega, u, run_succ_eq_next.mpr ⟨s1, h1, hu⟩, hcase⟩
    · exact ⟨0, by omega, s, rfl, .inl hb⟩

/-- Settles O8: the choice between host and engine follows the agent preferred, and each choice that
passes the engine over shortens its delay. -/
theorem hostAndEngineInterleave : Obligations.HostAndEngineInterleave := by
  refine ⟨fun s w rest i j hp hok hw hi hb hq hcons => ?_, fun s t n => exists_engineMoves⟩
  have hh : hostReady s = true := hostReady_of_word hp hw fun h => absurd h hi
  have hchoice := chooseAgent_of_host_engine hh hb hcons
  refine ⟨fun later hs => ?_, fun later hs => ?_, fun hs => ?_⟩
  · rw [preferred_of_cons hs] at hchoice
    exact step_of_host hok hchoice hp hw
  · rw [preferred_of_cons hs] at hchoice
    exact step_of_engine hok hchoice hq
  · refine ⟨(preferred s).2, preferred_of_nil hs, ?_⟩
    split at hchoice
    · exact .inr (step_of_engine hok hchoice hq)
    · exact .inl (step_of_host hok hchoice hp hw)

/-! ## Reads (R64, R65, R140) -/

/-- A reserved address reads 0x00 (R64). -/
theorem busRead_reserved {a : Addr} {s : State} (h : Reserved a s) : busRead a s = (0x00#8, s) := by
  unfold busRead frameBase
  dsimp only
  repeat (rw [if_neg (by omega)])

/-- Settles O13. -/
theorem readReservedAddress : Obligations.ReadReservedAddress := by
  intro a s h
  simp only [exec, execRd, busRead_reserved h]
  rfl

/-- Settles O16: the block is what it was, whether the byte is a draw or not. -/
theorem readHasNoSideEffect : Obligations.ReadHasNoSideEffect := by
  intro a s
  rcases busRead_state a s with e | e
  · exact ⟨(busRead a s).1, 0, by rw [exec, execRd, e]; rfl⟩
  · exact ⟨(busRead a s).1, 1, by rw [exec, execRd, e]; rfl⟩

/-! ## Writes (R65, R141 to R145) -/

theorem deliver_of_busy (f : State → State) {s : State} (h : s.state = .busy) :
    deliver f s = s.dropWrite := if_pos h

theorem deliver_of_not_busy (f : State → State) {s : State} (h : s.state ≠ .busy) :
    deliver f s = f s := if_neg h

/-- A write outside CTRL stores in a CONFIG location, and does nothing elsewhere (R141, R144). -/
theorem busWrite_of_ne_ctrl {a : Addr} (d : Byte) (s : State) (h : a ≠ 0x000#12) :
    busWrite a d s = if isConfig a = true then s.store a d else s := if_neg h

@[simp] theorem store_state (a : Addr) (d : Byte) (s : State) : (s.store a d).state = s.state := by
  rw [store_frame]

@[simp] theorem store_params (a : Addr) (d : Byte) (s : State) : (s.store a d).params = s.params := by
  rw [store_frame]

@[simp] theorem store_frameLen (a : Addr) (d : Byte) (s : State) :
    (s.store a d).frameLen = s.frameLen := by rw [store_frame]

@[simp] theorem store_frameBuf (a : Addr) (d : Byte) (s : State) :
    (s.store a d).frameBuf = s.frameBuf := by rw [store_frame]

theorem store_advance (a : Addr) (d : Byte) (s : State) :
    s.advance.store a d = (s.store a d).advance := by
  simp only [State.store]
  repeat' split
  all_goals rfl

theorem setMac_setMac (m : Vector Byte 6) (i : Nat) (u v : Byte) :
    setMac (setMac m i u) i v = setMac m i v := by
  simp [setMac]

/-- Storing the same byte again in a CONFIG location changes nothing (R65, R142). -/
theorem store_store (a : Addr) (d : Byte) (s : State) : (s.store a d).store a d = s.store a d := by
  unfold State.store
  dsimp only
  split_ifs <;> simp [setMac_setMac, Memory.write_write]

/-- What a WR outside CTRL leaves, the same WR leaves alone, wherever the host has gone on to. -/
theorem deliver_busWrite_again {a : Addr} (d : Byte) (s : State) (ha : a ≠ 0x000#12) :
    deliver (busWrite a d) (deliver (busWrite a d) s).advance =
      (deliver (busWrite a d) s).advance := by
  by_cases hb : s.state = .busy
  · rw [deliver_of_busy _ hb, deliver_of_busy _ (by simpa using hb)]; rfl
  · rw [deliver_of_not_busy _ hb, busWrite_of_ne_ctrl d s ha]
    split
    · rename_i hcfg
      rw [deliver_of_not_busy _ (by simpa using hb), busWrite_of_ne_ctrl d _ ha, if_pos hcfg,
        store_advance, store_store]
    · rename_i hcfg
      rw [deliver_of_not_busy _ (by simpa using hb), busWrite_of_ne_ctrl d _ ha, if_neg hcfg]

/-- Settles O21. -/
theorem configWriteIdempotent : Obligations.ConfigWriteIdempotent := by
  intro a d s t ha h
  rw [exec, execWr, Host.Outcome.next.injEq] at h
  rw [exec, execWr, ← h, deliver_busWrite_again d s ha]
  rfl

/-! ## The configuration and the frame, over a step (R78, R80) -/

@[simp] theorem State.block_params (s : State) : s.block.params = s.params := rfl
@[simp] theorem State.block_frameLen (s : State) : s.block.frameLen = s.frameLen := rfl
@[simp] theorem State.block_cur (s : State) : s.block.cur = s.cur := rfl
@[simp] theorem State.block_frameBuf (s : State) : s.block.frameBuf = s.frameBuf := rfl

@[simp] theorem pushAll_params (bs : List Byte) (s : State) : (pushAll bs s).params = s.params := by
  rw [pushAll_frame]

@[simp] theorem pushAll_frameLen (bs : List Byte) (s : State) :
    (pushAll bs s).frameLen = s.frameLen := by rw [pushAll_frame]

theorem SameConfig.refl (s : State) : SameConfig s s := ⟨rfl, rfl, rfl, rfl, rfl, rfl, rfl⟩

/-- The configuration is the block's, so equal blocks have equal configurations. -/
theorem SameConfig.of_block {s t u : State} (ht : t.block = u.block) (h : SameConfig s u) :
    SameConfig s t := by
  have hb : SameConfig s t.block := by rw [ht]; exact h
  exact hb

theorem sameConfig_write (bs : List Byte) (q : StepCode) (s : State) :
    SameConfig s ((pushAll bs s).setSeq q) := by
  rw [pushAll_frame]
  exact .refl s

theorem step_params {s t : State} (hs : step s = .next t) : t.params = s.params := by
  cases step_block hs with
  | still ht | drop _ _ _ _ _ _ _ ht | store _ _ _ ht | error _ _ _ _ _ _ _ _ _ ht
  | build _ _ _ _ _ _ _ ht | reset _ _ _ _ ht | write _ _ _ _ _ _ ht | publish _ _ _ ht =>
    simpa using congrArg State.params ht

/-- All a step of a running build can do: keep it running or publish, each with the configuration as it
was, or end it by a RST (R78, R224). -/
theorem step_of_busy {s t : State} (hb : s.state = .busy) (hs : step s = .next t) :
    (t.state = .busy ∧ SameConfig s t) ∨
    (t.state = .done ∧ SameConfig s t ∧ s.seq = 8#4 ∧ s.cur = s.len ∧ t.frameLen = s.len) ∨
    (t.state = .idle ∧ t.seq = 0#4 ∧
      ∃ w rest, s.program = .ht w :: rest ∧ decodeHT w = .ok .rst) := by
  cases step_block hs with
  | still ht => exact .inl ⟨(congrArg State.state ht).trans hb, .of_block ht (.refl s)⟩
  | drop w rest a d _ _ _ ht =>
    exact .inl ⟨(congrArg State.state ht).trans hb, .of_block ht (.refl s)⟩
  | write bs q k _ _ _ ht =>
    have hstate : t.state = s.state := by simpa using congrArg State.state ht
    exact .inl ⟨hstate.trans hb, .of_block ht (sameConfig_write bs q s)⟩
  | publish _ hq hc ht =>
    exact .inr (.inl ⟨congrArg State.state ht, .of_block ht (.refl s), hq, hc,
      congrArg State.frameLen ht⟩)
  | reset w rest hp hw ht =>
    exact .inr (.inr ⟨congrArg State.state ht, congrArg State.seq ht, w, rest, hp, hw⟩)
  | store _ _ hn _ | error _ _ _ _ _ _ _ hn _ _ | build _ _ _ _ hn _ _ _ => exact absurd hb hn

/-- Settles O54, by what a step of a running build can do. -/
theorem configFrozenDuringBuild : Obligations.ConfigFrozenDuringBuild := by
  intro s t hs
  refine ⟨step_params hs, fun hb hstay => ?_, fun hb => ?_⟩
  · rcases step_of_busy hb hs with ⟨_, hcfg⟩ | ⟨_, hcfg, _⟩ | ⟨hidle, _⟩
    · exact hcfg
    · exact hcfg
    · simp [hidle] at hstay
  · rcases step_of_busy hb hs with ⟨hbusy, _⟩ | ⟨hdone, _, hend⟩ | hreset
    · exact .inl hbusy
    · exact .inr (.inl ⟨hdone, hend⟩)
    · exact .inr (.inr hreset)

/-- FRAME_LEN changes at FINISH, at a command and at a RST alone (R80). -/
theorem frameLen_change {s t : State} (hs : step s = .next t) (hne : t.frameLen ≠ s.frameLen) :
    (s.state = .busy ∧ t.state = .done ∧ t.frameLen = s.len) ∨
    (t.frameLen = 0#16 ∧ ∃ w rest, s.program = .ht w :: rest ∧
      ((decodeHT w = .ok (.wr 0x000#12 0x01#8) ∧ t.state = .busy) ∨ decodeHT w = .ok .rst ∨
        (t.state = .error ∧ ∃ c : Byte, c ≠ 0x00#8 ∧ decodeHT w = .ok (.wr 0x000#12 c)))) := by
  cases step_block hs with
  | publish hb _ _ ht => exact .inl ⟨hb, congrArg State.state ht, congrArg State.frameLen ht⟩
  | build w rest hp hw _ _ _ ht =>
    exact .inr ⟨congrArg State.frameLen ht, w, rest, hp, .inl ⟨hw, congrArg State.state ht⟩⟩
  | reset w rest hp hw ht => exact .inr ⟨congrArg State.frameLen ht, w, rest, hp, .inr (.inl hw)⟩
  | error w rest c d hp hw hd _ _ ht =>
    exact .inr ⟨congrArg State.frameLen ht, w, rest, hp,
      .inr (.inr ⟨congrArg State.state ht, d, hd, hw⟩)⟩
  | still ht | drop _ _ _ _ _ _ _ ht | store _ _ _ ht | write _ _ _ _ _ _ ht =>
    exact absurd (by simpa using congrArg State.frameLen ht) hne

/-- FRAME_BUF changes at an engine step, between the two values of CUR, and at a RST alone (R80, R161). -/
theorem frameBuf_change {s t : State} (hs : step s = .next t) (hne : t.frameBuf ≠ s.frameBuf) :
    (s.state = .busy ∧ t.state = .busy ∧ s.cur.toNat < t.cur.toNat ∧
      ∀ a, a < s.cur.toNat ∨ t.cur.toNat ≤ a → Memory.read t.frameBuf a = Memory.read s.frameBuf a) ∨
    (t.frameBuf = [] ∧ ∃ w rest, s.program = .ht w :: rest ∧ decodeHT w = .ok .rst) := by
  cases step_block hs with
  | write bs q k hb _ hf ht =>
    have hstate : t.state = s.state := by simpa using congrArg State.state ht
    have hcur : t.cur = (pushAll bs s).cur := by simpa using congrArg State.cur ht
    have hbuf : t.frameBuf = (pushAll bs s).frameBuf := by simpa using congrArg State.frameBuf ht
    have hbs : bs ≠ [] := by rintro rfl; exact hne hbuf
    have hpos := List.length_pos_of_ne_nil hbs
    rw [hcur, hbuf, pushAll_cur bs s hf.small]
    refine .inl ⟨hb, hstate.trans hb, by omega, fun a ha => ?_⟩
    rw [pushAll_read bs s hf.small, if_neg (by omega)]
  | reset w rest hp hw ht => exact .inr ⟨congrArg State.frameBuf ht, w, rest, hp, hw⟩
  | still ht | drop _ _ _ _ _ _ _ ht | store _ _ _ ht | error _ _ _ _ _ _ _ _ _ ht
  | build _ _ _ _ _ _ _ ht | publish _ _ _ ht =>
    exact absurd (by simpa using congrArg State.frameBuf ht) hne

/-- Settles O57. -/
theorem frameChangesAtFourEvents : Obligations.FrameChangesAtFourEvents :=
  fun _ _ hs => ⟨frameLen_change hs, frameBuf_change hs⟩

end Sys2Proof.Machine
end

section
/-! PROOFS. The statements about the encodings (30_encoding.md): the decoders and the encoder, the command
rows, the assembler's expansions, and the layout of the frame. -/

namespace Sys2Proof.Machine

/-! ## HT words and their fields (R91) -/

@[simp] theorem htKind_htWord (k : BitVec 2) (a : Addr) (d : Byte) : htKind (htWord k a d) = k := by
  apply BitVec.eq_of_toNat_eq
  rw [htKind, field_toNat, htWord_toNat]
  omega

@[simp] theorem htReservedHigh_htWord (k : BitVec 2) (a : Addr) (d : Byte) :
    htReservedHigh (htWord k a d) = 0#2 := by
  apply BitVec.eq_of_toNat_eq
  rw [htReservedHigh, field_toNat, htWord_toNat, BitVec.toNat_zero]
  omega

@[simp] theorem htAddr_htWord (k : BitVec 2) (a : Addr) (d : Byte) : htAddr (htWord k a d) = a := by
  apply BitVec.eq_of_toNat_eq
  rw [htAddr, field_toNat, htWord_toNat]
  omega

@[simp] theorem htReservedLow_htWord (k : BitVec 2) (a : Addr) (d : Byte) :
    htReservedLow (htWord k a d) = 0#8 := by
  apply BitVec.eq_of_toNat_eq
  rw [htReservedLow, field_toNat, htWord_toNat, BitVec.toNat_zero]
  omega

@[simp] theorem htData_htWord (k : BitVec 2) (a : Addr) (d : Byte) : htData (htWord k a d) = d := by
  apply BitVec.eq_of_toNat_eq
  rw [htData, field_toNat, htWord_toNat]
  omega

/-- The five fields of a word leave no bit of it out. -/
theorem toNat_eq_fields (w : HTWord) :
    w.toNat = (htKind w).toNat * 2 ^ 30 + (htReservedHigh w).toNat * 2 ^ 28 + (htAddr w).toNat * 2 ^ 16 +
      (htReservedLow w).toNat * 2 ^ 8 + (htData w).toNat := by
  have hw := w.isLt
  simp only [htKind, htReservedHigh, htAddr, htReservedLow, htData, field_toNat]
  omega

/-- A word with zeros in its reserved bits is the word of its KIND, ADDR and DATA. -/
theorem htWord_fields {w : HTWord} (hh : htReservedHigh w = 0#2) (hl : htReservedLow w = 0#8) :
    htWord (htKind w) (htAddr w) (htData w) = w := by
  apply BitVec.eq_of_toNat_eq
  rw [htWord_toNat, toNat_eq_fields w, hh, hl, BitVec.toNat_zero, BitVec.toNat_zero]
  omega

/-- A word built from its fields, by its number. -/
theorem htWord_eq_ofNat (k : BitVec 2) (a : Addr) (d : Byte) :
    htWord k a d = BitVec.ofNat 32 (k.toNat * 2 ^ 30 + a.toNat * 2 ^ 16 + d.toNat) := by
  rw [← htWord_toNat, BitVec.ofNat_toNat, BitVec.setWidth_eq]

/-! ## Decode and encode (R92, R96 to R99) -/

/-- An accepted HT word is the encoding of its instruction (R92). -/
theorem encode_of_decodeHT {w : HTWord} {i : Instr} (h : decodeHT w = .ok i) : encode i = .ht w := by
  unfold decodeHT at h
  split at h
  case isTrue => cases h
  case isFalse hres =>
    obtain ⟨hh, hl⟩ : htReservedHigh w = 0#2 ∧ htReservedLow w = 0#8 := by simpa using hres
    have hw := htWord_fields hh hl
    split_ifs at h with hwr hrd hrst hwait <;> cases h
    · rw [encode, ← hwr, hw]
    · rw [encode, ← hrd.1, ← hrd.2, hw]
    · rw [encode, ← hrst.1, ← hrst.2.1, ← hrst.2.2, hw]
    · rw [encode, ← hwait.1, ← hwait.2.1, ← hwait.2.2, hw]

/-- The codes from 2 on are those of neither NOP nor BUILD (R96, R97). -/
theorem two_le_toNat_iff {c : Byte} : 2 ≤ c.toNat ↔ c ≠ 0x00#8 ∧ c ≠ 0x01#8 := by
  simp only [ne_eq, ← BitVec.toNat_inj, BitVec.toNat_ofNat]
  omega

theorem decodeCmd_of_two_le {c : Byte} (h : 2 ≤ c.toNat) : decodeCmd c = .reservedCmd c := by
  obtain ⟨h0, h1⟩ := two_le_toNat_iff.mp h
  rw [decodeCmd, if_neg h0, if_neg h1]

/-- Every command byte is the encoding of its row's instruction (R95 to R97). -/
theorem encode_decodeCmd (c : Byte) : encode (decodeCmd c) = .cmd c := by
  unfold decodeCmd
  split_ifs with h0 h1
  · rw [h0]; rfl
  · rw [h1]; rfl
  · rfl

theorem decodeCmd_wellFormed (c : Byte) : (decodeCmd c).wellFormed = true := by
  unfold decodeCmd
  split_ifs with h0 h1
  · rfl
  · rfl
  · exact decide_eq_true (two_le_toNat_iff.mpr ⟨h0, h1⟩)

/-- Settles O1: each format's decoder finds the fields the encoder put in place. -/
theorem decodeOfEncode : Obligations.DecodeOfEncode := by
  intro i hi
  cases i with
  | wr a d | rd a | rst | wait => simp [encode, decode, decodeHT]
  | nop | build => rfl
  | reservedCmd c =>
    have hc : 2 ≤ c.toNat := of_decide_eq_true hi
    rw [encode, decode, decodeCmd_of_two_le hc]
  | caphdr | rate | mgmthdr | body | ieSsid | ieRates | ieDs | finish => rfl

/-- Settles O2: by the format of the word. -/
theorem encodeOfDecode : Obligations.EncodeOfDecode := by
  intro c i h
  cases c with
  | ht w =>
    refine ⟨?_, encode_of_decodeHT h⟩
    rcases decodeHT_ok h with ⟨a, d, rfl⟩ | ⟨a, rfl⟩ | rfl | rfl <;> rfl
  | cmd c =>
    obtain rfl : decodeCmd c = i := Decoded.ok.inj h
    exact ⟨decodeCmd_wellFormed c, encode_decodeCmd c⟩
  | seq q =>
    rcases decodeSeq_ok h with ⟨rfl, rfl⟩ | ⟨rfl, rfl⟩ | ⟨rfl, rfl⟩ | ⟨rfl, rfl⟩ | ⟨rfl, rfl⟩ |
      ⟨rfl, rfl⟩ | ⟨rfl, rfl⟩ | ⟨rfl, rfl⟩ <;> exact ⟨rfl, rfl⟩

/-! ## The fields as quotients and remainders (R92) -/

/-- A field holds a number exactly where the word's quotient and remainder give it. -/
theorem field_eq_iff (w : HTWord) (at_ n : Nat) (v : BitVec n) :
    w.extractLsb' at_ n = v ↔ w.toNat / 2 ^ at_ % 2 ^ n = v.toNat := by
  rw [← BitVec.toNat_inj, field_toNat]

theorem htAddr_eq_ofNat (w : HTWord) : htAddr w = BitVec.ofNat 12 (w.toNat / 2 ^ 16) := by
  rw [htAddr, field_eq_iff, BitVec.toNat_ofNat]

theorem htData_eq_ofNat (w : HTWord) : htData w = BitVec.ofNat 8 w.toNat := by
  rw [htData, field_eq_iff, BitVec.toNat_ofNat, pow_zero, Nat.div_one]

theorem htKind_eq_iff (w : HTWord) (k : BitVec 2) : htKind w = k ↔ w.toNat / 2 ^ 30 = k.toNat := by
  have hw := w.isLt
  rw [htKind, field_eq_iff, Nat.mod_eq_of_lt (by omega)]

theorem htData_eq_zero_iff (w : HTWord) : htData w = 0#8 ↔ w.toNat % 256 = 0 := by
  rw [htData, field_eq_iff]
  simp

/-- The reserved bits are zero exactly where two remainders are. -/
theorem reserved_ne_zero_iff (w : HTWord) :
    (htReservedHigh w ≠ 0#2 ∨ htReservedLow w ≠ 0#8) ↔
      (w.toNat / 2 ^ 28 % 4 ≠ 0 ∨ w.toNat / 2 ^ 8 % 256 ≠ 0) := by
  rw [htReservedHigh, htReservedLow, ne_eq, ne_eq, field_eq_iff, field_eq_iff]
  rfl

/-- Among the words with zeros in the reserved bits one has the given KIND and zeros elsewhere. -/
theorem kind_alone_iff {w : HTWord} (k : BitVec 2)
    (hres : ¬ (htReservedHigh w ≠ 0#2 ∨ htReservedLow w ≠ 0#8)) :
    (htKind w = k ∧ htAddr w = 0#12 ∧ htData w = 0#8) ↔ w.toNat = k.toNat * 2 ^ 30 := by
  obtain ⟨hh, hl⟩ : htReservedHigh w = 0#2 ∧ htReservedLow w = 0#8 := by simpa using hres
  have hw := toNat_eq_fields w
  have ha := (htAddr w).isLt
  have hd := (htData w).isLt
  simp only [← BitVec.toNat_inj, hh, hl, BitVec.toNat_zero] at hw ⊢
  omega

/-- Settles O3: the decoder's conditions, one by one, as conditions on the word's number. -/
theorem hostWordDecoding : Obligations.HostWordDecoding := by
  intro w
  have hwr : Decoded.ok (.wr (htAddr w) (htData w)) =
      .ok (.wr (BitVec.ofNat 12 (w.toNat / 2 ^ 16)) (BitVec.ofNat 8 w.toNat)) := by
    rw [htAddr_eq_ofNat, htData_eq_ofNat]
  have hrd : Decoded.ok (.rd (htAddr w)) = .ok (.rd (BitVec.ofNat 12 (w.toNat / 2 ^ 16))) := by
    rw [htAddr_eq_ofNat]
  unfold decodeHT
  by_cases hres : htReservedHigh w ≠ 0#2 ∨ htReservedLow w ≠ 0#8
  · rw [if_pos hres, if_pos ((reserved_ne_zero_iff w).mp hres)]
  · rw [if_neg hres, if_neg (mt (reserved_ne_zero_iff w).mpr hres)]
    exact if_congr (htKind_eq_iff w 0#2) hwr <|
      if_congr (and_congr (htKind_eq_iff w 1#2) (htData_eq_zero_iff w)) hrd <|
      if_congr (kind_alone_iff 2#2 hres) rfl <|
      if_congr (kind_alone_iff 3#2 hres) rfl rfl

/-- Settles O4, row by row of the two code tables. -/
theorem commandAndStepCodes : Obligations.CommandAndStepCodes := by
  exact ⟨rfl, rfl, fun _ => decodeCmd_of_two_le, rfl, rfl, rfl, rfl, rfl, rfl, rfl, rfl, by decide⟩

/-- Settles O5, by running the decoder on the ten words. -/
theorem sampleWordsDecode : Obligations.SampleWordsDecode := by
  unfold Obligations.SampleWordsDecode
  decide

/-! ## Commands as writes to CTRL (R95, R104) -/

theorem busWrite_ctrl (d : Byte) : busWrite 0x000#12 d = command d := by
  funext s
  exact if_pos rfl

theorem command_nop : command 0x00#8 = fun s => s := rfl

theorem command_build : command 0x01#8 = buildCommand := rfl

/-- A reserved code raises BAD_CMD, whatever the code (R155). -/
theorem command_of_two_le {c : Byte} (h : 2 ≤ c.toNat) : command c = raiseError .badCmd := by
  obtain ⟨h0, h1⟩ := two_le_toNat_iff.mp h
  funext s
  rw [command, if_neg h0, if_neg h1]

/-- Settles O26: a WR to CTRL delivers the command of its byte. -/
theorem commandsAreControlWrites : Obligations.CommandsAreControlWrites := by
  intro s
  refine ⟨?_, ?_, fun c hc => ?_⟩
  · rw [exec, exec, execNop, execWr, busWrite_ctrl, command_nop]
  · rw [exec, exec, execBuild, execWr, busWrite_ctrl, command_build]
  · have hc : 2 ≤ c.toNat := of_decide_eq_true hc
    rw [exec, exec, execReservedCmd, execWr, busWrite_ctrl, command_of_two_le hc]

/-! ## The assembler's words (R103, R104) -/

theorem wrItem_eq {addr data : Nat} (ha : addr < 4096) (hd : data < 256) :
    wrItem addr data = .ht (BitVec.ofNat 32 (addr * 65536 + data)) := by
  have hbyte : (BitVec.ofNat 8 data).toNat = data := Nat.mod_eq_of_lt hd
  rw [wrItem, htWord_eq_ofNat, ofNat12_toNat ha, hbyte, BitVec.toNat_zero, Nat.zero_mul, Nat.zero_add]
  rfl

theorem rdItem_eq {addr : Nat} (ha : addr < 4096) :
    rdItem addr = .ht (BitVec.ofNat 32 (0x40000000 + addr * 65536)) := by
  rw [rdItem, htWord_eq_ofNat, ofNat12_toNat ha]
  rfl

/-- WRB where every address and byte fits: one WR for each byte, at consecutive addresses. -/
theorem expandWrb_of_fits {addr : Nat} {bs : List Nat} (ha : addr + bs.length ≤ 4096)
    (hb : ∀ x ∈ bs, x < 256) :
    expandWrb addr bs =
      some (bs.zipIdx.map fun p => .ht (BitVec.ofNat 32 ((addr + p.2) * 65536 + p.1))) := by
  induction bs generalizing addr with
  | nil => rfl
  | cons b bs ih =>
    rw [List.length_cons] at ha
    obtain ⟨hb0, hbs⟩ := List.forall_mem_cons.mp hb
    have haddr : addr < 4096 := by omega
    have hrest := ih (addr := addr + 1) (by omega) hbs
    rw [expandWrb, if_pos ⟨haddr, hb0⟩, hrest, wrItem_eq haddr hb0, List.zipIdx_cons', List.map_cons,
      List.map_map, Option.map_some]
    simp [Function.comp_def, Nat.add_right_comm, Nat.add_assoc]

/-- WRB is refused where its last address or one of its bytes does not fit. -/
theorem expandWrb_eq_none {addr b : Nat} {bs : List Nat}
    (h : 4096 ≤ addr + bs.length ∨ ∃ x ∈ b :: bs, 256 ≤ x) : expandWrb addr (b :: bs) = none := by
  induction bs generalizing addr b with
  | nil =>
    have hn : ¬ (addr < 4096 ∧ b < 256) := by simp at h; omega
    rw [expandWrb, if_neg hn]
  | cons c bs ih =>
    rw [expandWrb]
    split
    case isFalse => rfl
    case isTrue hfit =>
      have hrest : 4096 ≤ addr + 1 + bs.length ∨ ∃ x ∈ c :: bs, 256 ≤ x := by
        rcases h with hlen | ⟨x, hx, hbig⟩
        · left; rw [List.length_cons] at hlen; omega
        · right
          rcases List.mem_cons.mp hx with rfl | hx
          · omega
          · exact ⟨x, hx, hbig⟩
      rw [ih hrest, Option.map_none]

theorem allSome_map_some {α β : Type} {f : α → Option β} {g : α → β} {l : List α}
    (h : ∀ x ∈ l, f x = some (g x)) : allSome (l.map f) = some (l.map g) := by
  induction l with
  | nil => rfl
  | cons a l ih =>
    obtain ⟨ha, hl⟩ := List.forall_mem_cons.mp h
    rw [List.map_cons, ha, allSome, ih hl, Option.map_some, List.map_cons]

theorem allSome_eq_none {α : Type} {l : List (Option α)} (h : none ∈ l) : allSome l = none := by
  induction l with
  | nil => cases h
  | cons a l ih =>
    cases a with
    | none => rfl
    | some a => rw [allSome, ih (by simpa using h), Option.map_none]

/-- The characters of WRS are one WRB of their codes, where each is ASCII (R104). -/
theorem allSome_ascii {text : List Char} (h : ∀ c ∈ text, c.toNat < 128) :
    allSome (text.map ascii) = some (text.map Char.toNat) :=
  allSome_map_some fun c hc => if_pos (h c hc)

theorem allSome_ascii_eq_none {text : List Char} (h : ∃ c ∈ text, 128 ≤ c.toNat) :
    allSome (text.map ascii) = none := by
  obtain ⟨c, hc, hbig⟩ := h
  exact allSome_eq_none (List.mem_map.mpr ⟨c, hc, if_neg (by omega)⟩)

/-- WRS of ASCII characters is WRB of their codes (R104). -/
theorem expandStmt_wrs_ascii {addr : Nat} {c : Char} {text : List Char}
    (h : ∀ x ∈ c :: text, x.toNat < 128) :
    expandStmt (.wrs addr (c :: text)) = expandStmt (.wrb addr c.toNat (text.map Char.toNat)) := by
  rw [expandStmt, expandStmt, allSome_ascii h, Option.bind_some, List.map_cons]
  split
  case isTrue => rfl
  case isFalse hbig => exact (expandWrb_eq_none (.inl (by omega))).symm

theorem expandStmt_wrs_eq_none {addr : Nat} {c : Char} {text : List Char}
    (h : 4096 ≤ addr + text.length ∨ ∃ x ∈ c :: text, 128 ≤ x.toNat) :
    expandStmt (.wrs addr (c :: text)) = none := by
  by_cases hbad : ∃ x ∈ c :: text, 128 ≤ x.toNat
  · rw [expandStmt, allSome_ascii_eq_none hbad, Option.bind_none, ite_self]
  · have hascii : ∀ x ∈ c :: text, x.toNat < 128 := by simpa using hbad
    rw [expandStmt_wrs_ascii hascii]
    exact expandWrb_eq_none (.inl (by simpa using h.resolve_right hbad))

/-- RDB where every address fits: one RD for each address (R104). -/
theorem expandRdb_of_fits {addr n : Nat} (ha : addr < 4096) (hn : addr + n ≤ 4096) :
    expandRdb addr n =
      some ((List.range n).map fun k => .ht (BitVec.ofNat 32 (0x40000000 + (addr + k) * 65536))) := by
  rw [expandRdb, if_pos ⟨ha, hn⟩]
  refine congrArg some (List.map_congr_left fun k hk => ?_)
  have hk := List.mem_range.mp hk
  exact rdItem_eq (by omega)

/-- Settles O27: clause by clause, by the expansion of each statement. -/
theorem assemblerExpansions : Obligations.AssemblerExpansions := by
  refine ⟨fun addr data ha hd => ?_, fun addr data h => if_neg (by omega), fun addr ha => ?_,
    fun addr ha => if_neg (by omega), rfl, rfl, rfl, rfl,
    fun addr b bs ha hb => expandWrb_of_fits (by rw [List.length_cons]; omega) hb,
    fun addr b bs => expandWrb_eq_none, fun addr c text ha hc => ?_,
    fun addr c text => expandStmt_wrs_eq_none, fun addr n => expandRdb_of_fits,
    fun addr n h => if_neg (by omega), rfl⟩
  · rw [expandStmt, if_pos ⟨ha, hd⟩, wrItem_eq ha hd]
  · rw [expandStmt, if_pos ha, rdItem_eq ha]
  · have hcodes : ∀ x ∈ (c :: text).map Char.toNat, x < 256 := by
      simp only [List.forall_mem_map]
      exact fun x hx => Nat.lt_trans (hc x hx) (by decide)
    rw [expandStmt_wrs_ascii hc, expandStmt, ← List.map_cons, expandWrb_of_fits (by simp; omega) hcodes,
      List.zipIdx_map, List.map_map]
    rfl

/-! ## RDFRAME's last part (R104) -/

theorem frameLengthRead_append (before : List Byte) (lo hi : Byte) :
    frameLengthRead (before ++ [lo, hi]) = some (hi.toNat * 256 + lo.toNat) := by
  simp [frameLengthRead]

/-- RDFRAME's last part, where the two halves have been read and the frame fits its window. -/
theorem expandFrameBytes_of_read {s : State} {before : List Byte} {lo hi : Byte}
    (ht : s.trace = before ++ [lo, hi]) (hl : hi.toNat * 256 + lo.toNat ≤ 3072) :
    expandFrameBytes s = .next { s with program :=
      ((List.range (hi.toNat * 256 + lo.toNat)).map fun k =>
        HostItem.ht (BitVec.ofNat 32 (0x40000000 + (0x400 + k) * 65536))) ++ s.program.tail } := by
  have hexp := expandRdb_of_fits (addr := frameBase) (n := hi.toNat * 256 + lo.toNat) (by decide)
    (by unfold frameBase; omega)
  rw [expandFrameBytes, ht, frameLengthRead_append, Option.bind_some, hexp]
  rfl

theorem step_of_frameBytes {s u : State} {rest : List HostItem} (hok : programOk s.program = true)
    (hc : chooseAgent s = some (.host, u)) (hp : s.program = .frameBytes :: rest) :
    step s = expandFrameBytes u := by
  have hu : u.program = .frameBytes :: rest := by rw [(chooseAgent_some hc).2, hp]
  simp [step, fetch, hok, hc, fetchHost, hu]

/-- Settles O28: the host alone has a step, and the two bytes say how many RDs there are. -/
theorem readFrameExpands : Obligations.ReadFrameExpands := by
  intro s rest before lo hi hp hok hb hcons ht hl
  have hh : hostReady s = true := by rw [hostReady, hp]
  rw [step_of_frameBytes hok (chooseAgent_of_host_alone hh hb hcons) hp,
    expandFrameBytes_of_read ht hl, hp, List.tail_cons]

/-! ## The fields of the frame (R111) -/

/-- The fields of the frame, one entry for each row of the offset table of R111. -/
def frameFields (rc ch : Byte) (mac : Vector Byte 6) (ssid rates : List Byte) : List (List Byte) :=
  [[0x00#8, 0x00#8], [0x09#8, 0x00#8], [0x04#8, 0x00#8, 0x00#8, 0x00#8], [rc &&& 0x7F#8],
    [0x80#8, 0x00#8], [0x00#8, 0x00#8], List.replicate 6 0xFF#8, mac.toList, mac.toList,
    [0x00#8, 0x00#8], List.replicate 8 0x00#8, [0x64#8, 0x00#8], [0x01#8, 0x00#8],
    [0x00#8, BitVec.ofNat 8 ssid.length], ssid, [0x01#8, BitVec.ofNat 8 rates.length], rates,
    [0x03#8, 0x01#8, ch]]

theorem buildFrame_eq_flatten (rc ch : Byte) (mac : Vector Byte 6) (ssid rates : List Byte) :
    buildFrame rc ch mac ssid rates = (frameFields rc ch mac ssid rates).flatten := by
  simp [buildFrame, frameFields, le16, le32, rep, lo8, hi8]

/-- The fields stand in `bs` one after another, the first of them at offset `at_`. -/
def FieldsFrom (bs : List Byte) (at_ : Nat) (fields : List (List Byte)) : Prop :=
  match fields with
  | [] => True
  | l :: rest => slice bs at_ l.length = l ∧ FieldsFrom bs (at_ + l.length) rest

/-- Joined fields stand one after another, behind whatever stands before them. -/
theorem fieldsFrom_append_flatten (before : List Byte) (fields : List (List Byte)) :
    FieldsFrom (before ++ fields.flatten) before.length fields := by
  induction fields generalizing before with
  | nil => trivial
  | cons l rest ih =>
    refine ⟨?_, ?_⟩
    · rw [slice, List.drop_left, List.flatten_cons, List.take_left]
    · have hrest := ih (before ++ l)
      rwa [List.append_assoc, List.length_append, ← List.flatten_cons] at hrest

theorem buildFrame_fieldsFrom (rc ch : Byte) (mac : Vector Byte 6) (ssid rates : List Byte) :
    FieldsFrom (buildFrame rc ch mac ssid rates) 0 (frameFields rc ch mac ssid rates) := by
  rw [buildFrame_eq_flatten]
  exact fieldsFrom_append_flatten [] (frameFields rc ch mac ssid rates)

/-- The length is the fixed part and the two payloads (R130, R131). -/
theorem buildFrame_length (rc ch : Byte) (mac : Vector Byte 6) (ssid rates : List Byte) :
    (buildFrame rc ch mac ssid rates).length = 52 + ssid.length + rates.length := by
  rw [buildFrame_eq_flatten]
  simp [frameFields]
  omega

/-- Settles O47: the fields stand one after another, and their lengths add up to the offsets. -/
theorem frameLayout : Obligations.FrameLayout := by
  intro rc ch mac ssid rates _ _ f
  have hfields : FieldsFrom f 0 (frameFields rc ch mac ssid rates) :=
    buildFrame_fieldsFrom rc ch mac ssid rates
  have hrates : 47 + ssid.length + 2 = 49 + ssid.length := by omega
  refine ⟨buildFrame_length rc ch mac ssid rates, ?_⟩
  simpa [FieldsFrom, frameFields, hrates] using hfields

end Sys2Proof.Machine
end

section
/-! PROOFS. The statements about the host transactions (40_host_transactions.md): what RD, WR, RST and WAIT
do and leave, and the refusal of a malformed program. -/

namespace Sys2Proof.Machine

open Sys2Proof.Config

/-! ## A malformed program (R148) -/

/-- One word the decoder rejects spoils the program, wherever it stands (R92, R148). -/
theorem programOk_eq_false {p : List HostItem} {w : HTWord} (hw : HostItem.ht w ∈ p)
    (hm : decodeHT w = .malformedHT) : programOk p = false :=
  List.all_eq_false.mpr ⟨_, hw, by simp [itemOk, hm]⟩

theorem step_of_not_programOk {s : State} (h : programOk s.program = false) :
    step s = .refused .malformedHT := by
  simp [step, fetch, h]

/-- Every value is there where all of them are found. -/
theorem eq_map_some_of_allSome {α : Type} {l : List (Option α)} {as : List α}
    (h : allSome l = some as) : l = as.map some := by
  induction l generalizing as with
  | nil => cases h; rfl
  | cons a l ih =>
    cases a with
    | none => cases h
    | some a =>
      obtain ⟨bs, hbs, rfl⟩ := Option.map_eq_some_iff.mp h
      rw [ih hbs, List.map_cons]

/-- A statement with no expansion leaves the program without one (R103, R104). -/
theorem assemble_eq_none {ts : List Stmt} {t : Stmt} (ht : t ∈ ts) (hn : expandStmt t = none) :
    assemble ts = none := by
  rw [assemble, allSome_eq_none (List.mem_map.mpr ⟨t, ht, hn⟩), Option.map_none]

/-- A line is refused by the reader or by its statement's expansion, and either refuses the program. -/
theorem assembleLines_eq_none {lines : List (List Char)} {l : List Char} (hl : l ∈ lines)
    (hn : (parseLine l).bind expandStmt = none) : assembleLines lines = none := by
  have hmem : parseLine l ∈ lines.map parseLine := List.mem_map_of_mem hl
  cases hp : allSome (lines.map parseLine) with
  | none => rw [assembleLines, hp, Option.bind_none]
  | some ts =>
    rw [eq_map_some_of_allSome hp] at hmem
    obtain ⟨t, ht, hparse⟩ := List.mem_map.mp hmem
    rw [← hparse, Option.bind_some] at hn
    rw [assembleLines, hp, Option.bind_some, assemble_eq_none ht hn]

/-- Settles O10: the step looks at the whole program before it asks who moves, and so does the assembler
at the whole text before it answers a program. -/
theorem malformedProgramRefused : Obligations.MalformedProgramRefused := by
  refine ⟨fun s w hw hm => step_of_not_programOk (programOk_eq_false hw hm), fun lines l s hl hn => ?_⟩
  rw [loadLines, assembleLines_eq_none hl hn]

/-! ## RD (R140) -/

/-- A RD of a location that shows its byte. -/
theorem execRd_of_byte {a : Addr} {v : Byte} {s : State} (h : busRead a s = (v, s)) :
    exec (.rd a) s = .next (afterRead v s) := by
  rw [exec, execRd, h]
  rfl

/-- A RD of a location that shows a byte where it has one. -/
theorem execRd_of_some {a : Addr} {o : Option Byte} {v : Byte} {s : State}
    (h : busRead a s = orDraw o s) (ho : o = some v) : exec (.rd a) s = .next (afterRead v s) :=
  execRd_of_byte (h.trans (ho ▸ rfl))

/-- A RD of such a location where it has none. -/
theorem execRd_of_none {a : Addr} {o : Option Byte} {s : State}
    (h : busRead a s = orDraw o s) (ho : o = none) : exec (.rd a) s = .next (afterDraw s) := by
  rw [exec, execRd, h, ho]
  rfl

/-- Settles O14: a RD of either array shows the cell's byte where it has one. -/
theorem readDescriptorCell : Obligations.ReadDescriptorCell := fun _ _ hi =>
  ⟨fun _ => execRd_of_some (busRead_ssid hi), execRd_of_none (busRead_ssid hi),
    fun _ => execRd_of_some (busRead_rates hi), execRd_of_none (busRead_rates hi)⟩

theorem publishedByte_of_done {s : State} {i : Nat} (hd : s.state = .done)
    (hi : i < s.frameLen.toNat) : publishedByte s i = Memory.read s.frameBuf i :=
  if_pos ⟨hd, hi⟩

/-- FRAME_BUF shows nothing outside DONE, past FRAME_LEN, or of an unwritten cell (R140). -/
theorem publishedByte_eq_none {s : State} {i : Nat}
    (h : s.state ≠ .done ∨ s.frameLen.toNat ≤ i ∨ Memory.read s.frameBuf i = none) :
    publishedByte s i = none := by
  by_cases hp : s.state = .done ∧ i < s.frameLen.toNat
  · obtain ⟨hd, hi⟩ := hp
    rw [publishedByte_of_done hd hi]
    rcases h with h | h | h
    · exact absurd hd h
    · omega
    · exact h
  · exact if_neg hp

/-- Settles O15: a RD of FRAME_BUF shows the published byte where there is one. -/
theorem readFrameBuffer : Obligations.ReadFrameBuffer := fun _ _ hcap hi =>
  ⟨fun _ hd hlen hv =>
      execRd_of_some (busRead_frameBuf hcap hi) ((publishedByte_of_done hd hlen).trans hv),
    fun h => execRd_of_none (busRead_frameBuf hcap hi) (publishedByte_eq_none h)⟩

/-! ### The registers (R35 to R38, R40) -/

/-- The fields of STATUS do not overlap, and bit 3 is 0 (R35 to R38). -/
theorem statusByte_toNat (s : State) :
    (statusByte s).toNat =
      (errBits s.err).toNat * 16 + (dropBit s.drop).toNat * 4 + (stateBits s.state).toNat := by
  have hfields : ∀ (e : BitVec 4) (d : BitVec 1) (b : BitVec 2),
      (e.setWidth 8 <<< 4 ||| d.setWidth 8 <<< 2 ||| b.setWidth 8 : Byte).toNat =
        e.toNat * 16 + d.toNat * 4 + b.toNat := by decide
  exact hfields _ _ _

theorem lo8_toNat (v : Half) : (lo8 v).toNat = v.toNat % 256 := by
  simp [lo8, BitVec.extractLsb'_toNat]

/-- The two halves of a value make it up again (R11). -/
theorem hi8_lo8 (v : Half) : (hi8 v).toNat * 256 + (lo8 v).toNat = v.toNat := by
  rw [hi8_toNat, lo8_toNat]
  omega

/-- A RD of AP_MAC[i] (R140). -/
theorem busRead_apMac {i : Nat} {s : State} (h : i < 6) :
    busRead (BitVec.ofNat 12 (0x009 + i)) s = (s.apMac[i], s) := by
  simp (disch := omega) only [busRead, ofNat12_toNat, if_neg, if_pos, Nat.add_sub_cancel_left, macByte,
    Vector.getElem?_eq_getElem, Option.getD_some]

/-- Settles O12, register by register. -/
theorem readRegisters : Obligations.ReadRegisters := by
  intro s
  refine ⟨execRd_of_byte rfl, ⟨statusByte s, execRd_of_byte rfl, ?status⟩,
    ⟨lo8 s.frameLen, hi8 s.frameLen, execRd_of_byte rfl, execRd_of_byte (busRead_frameLenHi s),
      hi8_lo8 s.frameLen⟩,
    ⟨s.seq.setWidth 8, execRd_of_byte rfl, ?seq⟩, execRd_of_byte rfl, execRd_of_byte rfl,
    execRd_of_byte rfl, execRd_of_byte rfl, fun i hi => execRd_of_byte (busRead_apMac hi)⟩
  case status =>
    rw [statusByte_toNat]
    congr 1
    · congr 1
      · cases s.err <;> rfl
      · cases s.drop <;> rfl
    · cases s.state <;> rfl
  case seq => exact BitVec.toNat_setWidth_of_le (by decide)

/-! ## WR (R141 to R145) -/

/-- The CONFIG locations by their numbers (R141). -/
theorem isConfig_iff {a : Addr} : isConfig a = true ↔
    (0x005 ≤ a.toNat ∧ a.toNat ≤ 0x00E) ∨ (0x100 ≤ a.toNat ∧ a.toNat ≤ 0x1FE) ∨
      (0x200 ≤ a.toNat ∧ a.toNat ≤ 0x2FE) := by
  simp [isConfig, or_assoc]

theorem ne_ctrl_of_pos {a : Addr} (h : 0 < a.toNat) : a ≠ 0x000#12 := by
  rintro rfl
  exact absurd h (by decide)

/-- A WR to a CONFIG location outside BUSY stores its byte (R142). -/
theorem execWr_config {a : Addr} (d : Byte) {s : State} (hb : s.state ≠ .busy)
    (ha : isConfig a = true) : exec (.wr a d) s = .next (s.store a d).advance := by
  have hctrl : a ≠ 0x000#12 := ne_ctrl_of_pos (by have := isConfig_iff.mp ha; omega)
  rw [exec, execWr, deliver_of_not_busy _ hb, busWrite_of_ne_ctrl d s hctrl, if_pos ha]

/-- A WR outside CONFIG and CTRL is ignored (R144). -/
theorem execWr_of_not_config {a : Addr} (d : Byte) {s : State} (hb : s.state ≠ .busy)
    (hctrl : a ≠ 0x000#12) (ha : isConfig a ≠ true) : exec (.wr a d) s = .next s.advance := by
  rw [exec, execWr, deliver_of_not_busy _ hb, busWrite_of_ne_ctrl d s hctrl, if_neg ha]

/-- Settles O19: none of these addresses is CTRL or in CONFIG. -/
theorem writeIgnored : Obligations.WriteIgnored := by
  intro a d s hb ha
  exact execWr_of_not_config d hb (ne_ctrl_of_pos (by omega)) fun hcfg => by
    have := isConfig_iff.mp hcfg
    omega

/-- Settles O20: a dropped write never reaches its address. -/
theorem writeDroppedWhileBusy : Obligations.WriteDroppedWhileBusy := by
  intro a d s hb
  rw [exec, execWr, deliver_of_busy _ hb]
  rfl

theorem isConfig_ofNat {n : Nat} (h : (0x005 ≤ n ∧ n ≤ 0x00E) ∨ (0x100 ≤ n ∧ n ≤ 0x1FE) ∨
    (0x200 ≤ n ∧ n ≤ 0x2FE)) : isConfig (BitVec.ofNat 12 n) = true :=
  isConfig_iff.mpr (by rwa [ofNat12_toNat (by omega)])

theorem setMac_eq_set {i : Nat} (m : Vector Byte 6) (d : Byte) (h : i < 6) :
    setMac m i d = m.set i d := by
  ext j hj
  rw [setMac, Vector.getElem_setIfInBounds, Vector.getElem_set]

/-- A store to AP_MAC[i] (R142). -/
theorem store_apMac {i : Nat} (d : Byte) (s : State) (h : i < 6) :
    s.store (BitVec.ofNat 12 (0x009 + i)) d = { s with apMac := s.apMac.set i d } := by
  simp (disch := omega) only [State.store, ofNat12_toNat, if_neg, if_pos, Nat.add_sub_cancel_left,
    setMac_eq_set]

/-- A store to SSID[i] (R142). -/
theorem store_ssid {i : Nat} (d : Byte) (s : State) (h : i < 255) :
    s.store (BitVec.ofNat 12 (0x100 + i)) d = { s with ssid := Memory.write s.ssid i d } := by
  simp (disch := omega) only [State.store, ofNat12_toNat, if_neg, if_pos, Nat.add_sub_cancel_left]

/-- A store to RATES[i] (R142). -/
theorem store_rates {i : Nat} (d : Byte) (s : State) (h : i < 255) :
    s.store (BitVec.ofNat 12 (0x200 + i)) d = { s with rates := Memory.write s.rates i d } := by
  simp (disch := omega) only [State.store, ofNat12_toNat, if_neg, if_pos, Nat.add_sub_cancel_left]

/-- Settles O17, location by location. -/
theorem writeConfigRegister : Obligations.WriteConfigRegister := by
  intro d s hb
  refine ⟨execWr_config d hb rfl, execWr_config d hb rfl, execWr_config d hb rfl,
    execWr_config d hb rfl, fun i hi => ?_⟩
  rw [execWr_config d hb (isConfig_ofNat (by omega)), store_apMac d s hi]
  rfl

/-- Settles O18: the store is one write to the array, and a cell written reads the byte. -/
theorem writeDescriptorCell : Obligations.WriteDescriptorCell := by
  intro i d s hb hi
  refine ⟨⟨{ s with ssid := Memory.write s.ssid i d }.advance, ?_, rfl,
      fun j => Memory.read_write s.ssid i j d⟩,
    ⟨{ s with rates := Memory.write s.rates i d }.advance, ?_, rfl,
      fun j => Memory.read_write s.rates i j d⟩⟩
  · rw [execWr_config d hb (isConfig_ofNat (by omega)), store_ssid d s hi]
  · rw [execWr_config d hb (isConfig_ofNat (by omega)), store_rates d s hi]

/-! ## RST and WAIT (R146, R147) -/

/-- Settles O22: the block's fields are those of the reset state, and the rest is kept. -/
theorem resetTransaction : Obligations.ResetTransaction := fun _ => rfl

/-- Settles O23: the two branches of WAIT. -/
theorem waitTransaction : Obligations.WaitTransaction :=
  fun _ => ⟨fun hb => if_neg hb, fun hb => if_pos hb⟩

end Sys2Proof.Machine
end

section
/-! PROOFS. The statements about the commands (41_commands.md): NOP, BUILD and the reserved codes, and the
dispatch of a WR to CTRL among them. -/

namespace Sys2Proof.Machine

/-! ## NOP and the reserved codes (R151, R155) -/

/-- Settles O29: outside BUSY the write is delivered, and NOP's effect is the identity. -/
theorem nopDoesNothing : Obligations.NopDoesNothing := by
  intro s hb
  rw [exec, execNop, deliver_of_not_busy _ hb]
  rfl

/-- Settles O31: outside BUSY the write is delivered, and the host goes on after the error entry. -/
theorem reservedCommandFails : Obligations.ReservedCommandFails := by
  intro c s hb _
  rw [exec, execReservedCmd, deliver_of_not_busy _ hb]
  rfl

/-! ## BUILD (R152 to R154) -/

/-- LEN as an accepted BUILD computes it, as a number (R131, R152). -/
theorem frameLength_eq_ofNat (s : State) :
    frameLength s = BitVec.ofNat 16 (52 + s.ssidLen.toNat + s.ratesLen.toNat) := by
  rw [← frameLength_toNat, BitVec.ofNat_toNat, BitVec.setWidth_eq]

/-- BUILD outside BUSY: the channel check, then the capacity check on the exact sum, then acceptance
(R152 to R154). -/
theorem execBuild_of_not_busy {s : State} (hb : s.state ≠ .busy) :
    exec .build s = .next
      (if s.params.checkChannel = true ∧ s.channel = 0x00#8 then afterError .badChannel s
       else if s.params.bufCap < 52 + s.ssidLen.toNat + s.ratesLen.toNat then afterError .overflow s
       else (acceptBuild s).advance) := by
  rw [exec, execBuild, deliver_of_not_busy _ hb, buildCommand, frameLength_toNat,
    apply_ite State.advance, apply_ite State.advance]
  rfl

/-- Settles O30: each part names the branch of BUILD that its hypotheses select. (The name `buildCommand`
is the model's own operation.) -/
theorem buildCommand_spec : Obligations.BuildCommand := by
  intro s hb
  rw [execBuild_of_not_busy hb]
  have hpass : s.params.checkChannel = false ∨ s.channel ≠ 0x00#8 →
      ¬(s.params.checkChannel = true ∧ s.channel = 0x00#8) :=
    fun h => not_and_or.mpr (h.imp_left Bool.eq_false_iff.mp)
  refine ⟨fun hon hzero => ?_, fun hch hcap => ?_, fun hch hcap => ?_⟩
  · rw [if_pos ⟨hon, hzero⟩]
  · rw [if_neg (hpass hch), if_pos hcap]
  · rw [if_neg (hpass hch), if_neg (Nat.not_lt.mpr hcap), ← frameLength_eq_ofNat]
    rfl

/-! ## The dispatch of a WR to CTRL (R150, R209) -/

/-- A command code is NOP's, BUILD's or reserved (R96, R97). -/
theorem commandCode_cases (c : Byte) : c = 0x00#8 ∨ c = 0x01#8 ∨ 2 ≤ c.toNat := by
  by_cases h0 : c = 0x00#8
  · exact .inl h0
  · by_cases h1 : c = 0x01#8
    · exact .inr (.inl h1)
    · exact .inr (.inr (two_le_toNat_iff.mpr ⟨h0, h1⟩))

/-- Settles O32: while BUSY the write is dropped (O20), and else it is the command of its code (O26). -/
theorem errorPriority : Obligations.ErrorPriority := by
  intro c s
  by_cases hb : s.state = .busy
  · rw [if_pos hb, writeDroppedWhileBusy _ c s hb]
  obtain ⟨hnop, hbuild, hreserved⟩ := commandsAreControlWrites s
  rw [if_neg hb]
  obtain rfl | rfl | hc := commandCode_cases c
  case inl => rw [← hnop, nopDoesNothing s hb]; rfl
  case inr.inl =>
    have hzero : s.channel.toNat = 0 ↔ s.channel = 0x00#8 := BitVec.toNat_inj (y := 0x00#8)
    rw [← hbuild, execBuild_of_not_busy hb]
    simp only [hzero]
    rfl
  case inr.inr =>
    have hwf : (Instr.reservedCmd c).wellFormed = true := decide_eq_true hc
    rw [if_pos hc, ← hreserved c hwf, reservedCommandFails c s hb hwf]

end Sys2Proof.Machine
end

section
/-! PROOFS. The statements about the serializer (42_serializer_steps.md): what each engine step writes, the
laws of the frame, and the builds that publish it. -/

namespace Sys2Proof.Machine

open Sys2Proof.Config

/-! ## The engine moves, or nobody does (R160) -/

/-- A host that is through, or held at a WAIT of a running build, has no step (R147). -/
theorem hostReady_eq_false {s : State} (hb : s.state = .busy)
    (hp : s.program = [] ∨ ∃ w rest, s.program = .ht w :: rest ∧ decodeHT w = .ok .wait) :
    hostReady s = false := by
  rcases hp with hp | ⟨w, rest, hp, hw⟩
  · rw [hostReady, hp]
  · simp [hostReady, hp, hw, State.busyOut, hb]

theorem chooseAgent_of_engine_alone {s : State} (hh : hostReady s = false) (hb : s.state = .busy)
    (hc : consumerReady s = false) : chooseAgent s = some (.engine, s) := by
  simp [chooseAgent, readyAgents_eq, hh, engineReady_iff, hb, hc]

theorem chooseAgent_of_nobody {s : State} (hh : hostReady s = false) (hb : s.state ≠ .busy)
    (hc : consumerReady s = false) : chooseAgent s = none := by
  simp [chooseAgent, readyAgents_eq, hh, engineReady_iff, hb, hc]

theorem EngineAlone.consumer_not_ready {s : State} (h : EngineAlone s) : consumerReady s = false := by
  rw [consumerReady, h.2]

theorem programOk_of_nil {s : State} (h : s.program = []) : programOk s.program = true := by
  rw [h]; rfl

/-- Settles O7: the engine alone has a step, so it moves in the state as it is. -/
theorem engineStepRunsInstruction : Obligations.EngineStepRunsInstruction := by
  intro s i hb hq hcons hok hp
  exact step_of_engine hok (chooseAgent_of_engine_alone (hostReady_eq_false hb hp) hb hcons) hq

/-- Settles O9: the engine moves, and the decoder knows none of these codes (O4). -/
theorem badStepCodeFaults : Obligations.BadStepCodeFaults := by
  intro s hb hq ha
  obtain ⟨-, -, -, -, -, -, -, -, -, -, -, hbad⟩ := commandAndStepCodes
  have hc := chooseAgent_of_engine_alone (hostReady_eq_false hb (.inl ha.1)) hb ha.consumer_not_ready
  simp [step, fetch, programOk_of_nil ha.1, hc, fetchEngine, hbad s.seq hq]

/-- Settles O11: nobody has a step. -/
theorem idleMachineStays : Obligations.IdleMachineStays := by
  rintro s ⟨hp, hb⟩ hcons
  have hh : hostReady s = false := by rw [hostReady, hp]
  simp [step, fetch, programOk_of_nil hp, chooseAgent_of_nobody hh hb hcons]

/-! ## The steps that write a byte list (R170 to R173) -/

/-- The mask keeps the low seven bits (R114, R183). -/
theorem and_rateMask_toNat (rc : Byte) : (rc &&& 0x7F#8).toNat = rc.toNat % 128 := by
  rw [BitVec.toNat_and]
  exact Nat.and_two_pow_sub_one_eq_mod rc.toNat 7

/-- Settles O35. -/
theorem caphdrWrites : Obligations.CaphdrWrites :=
  fun _ h => writeStep_fits (bs := capHdrBytes) h

/-- Settles O36. -/
theorem rateWrites : Obligations.RateWrites := by
  intro s h
  have hbyte : BitVec.ofNat 8 (s.rateCode.toNat % 128) = s.rateCode &&& rateMask := by
    rw [← and_rateMask_toNat, BitVec.ofNat_toNat, BitVec.setWidth_eq]
    rfl
  rw [hbyte]
  exact writeStep_fits (bs := rateBytes s.rateCode) h

/-- Settles O37. -/
theorem mgmthdrWrites : Obligations.MgmthdrWrites := by
  intro s h
  exact writeStep_fits (bs := mgmtHdrBytes s.apMac) (by simpa [mgmtHdrBytes, le16, rep] using h)

/-- Settles O38. -/
theorem bodyWrites : Obligations.BodyWrites :=
  fun _ h => writeStep_fits (bs := bodyBytes) h

/-! ## The steps that write an element (R174 to R176) -/

/-- A payload's cells, one by one (R164). -/
theorem Holds.read {m : Memory} {n : Byte} {bs : List Byte} (h : Holds m n bs) {k : Nat}
    (hk : k < bs.length) : Memory.read m k = bs[k]? := by
  have hcell : (cells m n.toNat)[k]? = (bs.map some)[k]? := congrArg (·[k]?) h
  rw [cells_getElem?, if_pos (h.length ▸ hk), List.getElem?_map, List.getElem?_eq_getElem hk] at hcell
  rw [List.getElem?_eq_getElem hk]
  exact Option.some.inj hcell

/-- EmitTLV comes to its payload where the element's head fits (R165). -/
theorem emitTLV_of_fits {id n : Byte} {p : Nat → Option Byte} {m : Nat} {s : State}
    (h : Fits (m + 2) s) :
    emitTLV id n p s = emitPayload p 0 n.toNat (pushAll [id, n] s) ∧ Fits m (pushAll [id, n] s) := by
  have hid : Fits (m + 1) (s.pushByte id) := h.pushByte id
  have h1 : put8 id s = .next (s.pushByte id) :=
    put8_eq_next.mpr ⟨by simp only [Fits] at h ⊢; omega, rfl⟩
  have h2 : put8 n (s.pushByte id) = .next ((s.pushByte id).pushByte n) :=
    put8_eq_next.mpr ⟨by simp only [Fits] at hid ⊢; omega, rfl⟩
  exact ⟨by rw [emitTLV, h1, andThen_next, h2, andThen_next]; rfl, hid.pushByte n⟩

/-- A step that writes an element faults at the first payload cell that is not there (R164). -/
theorem tlvStep_unwritten {id n : Byte} {p : Nat → Option Byte} {q : StepCode} {s : State} {i : Nat}
    (h : Fits (n.toNat + 2) s) (hi : i < n.toNat) (hp : p i = none) :
    tlvStep id n p q s = .fault .unwrittenInput := by
  obtain ⟨j, hj, hbefore⟩ := Nat.findX (p := fun k => p k = none) ⟨i, hp⟩
  have hji : j ≤ i := not_lt.mp fun hij => hbefore i hij hp
  obtain ⟨hpayload, hfit⟩ := emitTLV_of_fits (id := id) (n := n) (p := p) h
  have hfault := emitPayload_unwritten (p := p) (i := 0) (lt_of_le_of_lt hji hi) hfit
    (by simpa using hbefore) (by simpa using hj)
  rw [tlvStep, hpayload, hfault, andThen_fault]

/-- A step that writes an element from descriptor cells: it completes where they are all written, and
faults where one is not (R164, R165). -/
theorem tlvStep_cells {id n : Byte} {m : Memory} {q : StepCode} {s : State} (h : Fits (2 + n.toNat) s) :
    (∀ bs, Holds m n bs →
      ∃ t, tlvStep id n (cfgByte m) q s = .next t ∧ WroteBytes ([id, n] ++ bs) q s t) ∧
    (∀ i, i < n.toNat → Memory.read m i = none →
      tlvStep id n (cfgByte m) q s = .fault .unwrittenInput) := by
  rw [Nat.add_comm] at h
  exact ⟨fun _ hbs => tlvStep_fits hbs.length (fun _ => hbs.read) (hbs.length ▸ h),
    fun _ hi hn => tlvStep_unwritten h hi hn⟩

/-- Settles O39. -/
theorem ieSsidWrites : Obligations.IeSsidWrites := fun _ h => tlvStep_cells h

/-- Settles O40. -/
theorem ieRatesWrites : Obligations.IeRatesWrites := fun _ h => tlvStep_cells h

/-- Every payload byte of IE_DS is CHANNEL, and there is one (R176). -/
theorem channel_payload {ch : Byte} {k : Nat} (hk : k < [ch].length) : some ch = [ch][k]? := by
  obtain rfl : k = 0 := Nat.lt_one_iff.mp hk
  rfl

/-- Settles O41. -/
theorem ieDsWrites : Obligations.IeDsWrites :=
  fun s h => tlvStep_fits (bs := [s.channel]) rfl (fun _ => channel_payload) h

/-- FINISH at LEN publishes (R177). -/
theorem exec_finish_at_len {s : State} (h : s.cur = s.len) : exec .finish s = .next (publish s) :=
  if_neg (not_not.mpr h)

/-- Settles O42: the two branches of FINISH. -/
theorem finishPublishes : Obligations.FinishPublishes :=
  fun _ => ⟨exec_finish_at_len, fun hc => if_pos hc⟩

/-! ## No byte at or past LEN (R161) -/

theorem writeStep_past {b : Byte} {bs : List Byte} {q : StepCode} {s : State}
    (h : s.len.toNat ≤ s.cur.toNat) : writeStep (b :: bs) q s = .fault .lengthMismatch := by
  rw [writeStep, putBytes, put8_past h, andThen_fault, andThen_fault]

theorem tlvStep_past {id n : Byte} {p : Nat → Option Byte} {q : StepCode} {s : State}
    (h : s.len.toNat ≤ s.cur.toNat) : tlvStep id n p q s = .fault .lengthMismatch := by
  rw [tlvStep, emitTLV, put8_past h, andThen_fault, andThen_fault]

/-- The seven writing steps write a byte list that is not empty, or an element (R163). -/
theorem exec_of_writing {i : Instr}
    (hi : i ∈ [Instr.caphdr, .rate, .mgmthdr, .body, .ieSsid, .ieRates, .ieDs]) (s : State) :
    (∃ b bs q, exec i s = writeStep (b :: bs) q s) ∨ (∃ id n p q, exec i s = tlvStep id n p q s) := by
  simp only [List.mem_cons, List.not_mem_nil, or_false] at hi
  rcases hi with rfl | rfl | rfl | rfl | rfl | rfl | rfl
  case inl | inr.inl | inr.inr.inl | inr.inr.inr.inl => exact .inl ⟨_, _, _, rfl⟩
  all_goals exact .inr ⟨_, _, _, _, rfl⟩

/-- All a writing step can do when it answers a next state: it writes some bytes, which fit (R161). -/
theorem exec_writing_next {i : Instr} {s t : State}
    (hi : i ∈ [Instr.caphdr, .rate, .mgmthdr, .body, .ieSsid, .ieRates, .ieDs])
    (h : exec i s = .next t) :
    ∃ bs q, bs ≠ [] ∧ Fits bs.length s ∧ t = (pushAll bs s).setSeq q := by
  rcases exec_of_writing hi s with ⟨b, bs, q, e⟩ | ⟨id, n, p, q, e⟩ <;> rw [e] at h
  · exact ⟨b :: bs, q, List.cons_ne_nil _ _, writeStep_next (List.cons_ne_nil _ _) h⟩
  · obtain ⟨bs, -, -, hf, ht⟩ := tlvStep_next h
    exact ⟨id :: n :: bs, q, List.cons_ne_nil _ _, hf, ht⟩

/-- Settles O43: a completed step's bytes fit below LEN, and Put8 faults at it. -/
theorem writePastLengthFaults : Obligations.WritePastLengthFaults := by
  intro s i hi
  refine ⟨fun hpast => ?_, fun t h => ?_⟩
  · rcases exec_of_writing hi s with ⟨b, bs, q, e⟩ | ⟨id, n, p, q, e⟩ <;> rw [e]
    · exact writeStep_past hpast
    · exact tlvStep_past hpast
  · obtain ⟨bs, q, hne, hf, rfl⟩ := exec_writing_next hi h
    have hpos := List.length_pos_of_ne_nil hne
    have hlen := hf.1
    obtain ⟨-, hcur, -, hkeep⟩ := wroteBytes_pushAll hf.small q
    refine ⟨by omega, by omega, ?_, fun a ha => hkeep a (by omega)⟩
    rw [pushAll_frame]
    rfl

/-! ## The laws of the frame (R183 to R185) -/

/-- A byte of a field stands in the frame behind the fields before it. -/
theorem buildFrame_getElem? {rc ch : Byte} {mac : Vector Byte 6} {ssid rates l : List Byte}
    {k at_ j : Nat} (hl : (frameFields rc ch mac ssid rates)[k]? = some l)
    (hat : ((frameFields rc ch mac ssid rates).take k).flatten.length = at_) (hj : j < l.length) :
    (buildFrame rc ch mac ssid rates)[at_ + j]? = l[j]? := by
  rw [buildFrame_eq_flatten, ← hat]
  exact flatten_getElem?_of_take hl hj

/-- Settles O48: the rate code is field 3, the interval field 11, the capability field 12 and the rates
are field 16 of the frame. -/
theorem maskingAndByteOrder : Obligations.MaskingAndByteOrder := by
  intro rc ch mac ssid rates f
  have hrate : ((frameFields rc ch mac ssid rates).take 3).flatten.length = 8 := rfl
  have hinterval : ((frameFields rc ch mac ssid rates).take 11).flatten.length = 41 := by
    simp [frameFields]
  have hcapability : ((frameFields rc ch mac ssid rates).take 12).flatten.length = 43 := by
    simp [frameFields]
  have hrates : ((frameFields rc ch mac ssid rates).take 16).flatten.length = 49 + ssid.length := by
    simp [frameFields]; omega
  refine ⟨⟨rc &&& 0x7F#8, ?_, and_rateMask_toNat rc⟩, fun i hi => ?_,
    0x64#8, 0x00#8, 0x01#8, 0x00#8, ?_, ?_, ?_, ?_, rfl, rfl⟩
  · exact buildFrame_getElem? (j := 0) (l := [rc &&& 0x7F#8]) rfl hrate Nat.one_pos
  · exact buildFrame_getElem? (l := rates) rfl hrates hi
  · exact buildFrame_getElem? (j := 0) (l := [0x64#8, 0x00#8]) rfl hinterval Nat.two_pos
  · exact buildFrame_getElem? (j := 1) (l := [0x64#8, 0x00#8]) rfl hinterval Nat.one_lt_two
  · exact buildFrame_getElem? (j := 0) (l := [0x01#8, 0x00#8]) rfl hcapability Nat.two_pos
  · exact buildFrame_getElem? (j := 1) (l := [0x01#8, 0x00#8]) rfl hcapability Nat.one_lt_two

/-- An element at the head of the bytes is read, and then the rest (R185). -/
theorem parseElements_cons {id n : Byte} {payload rest : List Byte} (hn : payload.length = n.toNat)
    (k : Nat) :
    parseElements (k + 1) (id :: n :: (payload ++ rest)) =
      (parseElements k rest).map ((id, payload) :: ·) := by
  have hfit : n.toNat ≤ (payload ++ rest).length := by rw [List.length_append]; omega
  rw [parseElements, if_pos hfit, ← hn, List.drop_left, List.take_left]

/-- The first 45 bytes are the frame's fixed part, and the elements come after it (R111). -/
theorem buildFrame_drop (rc ch : Byte) (mac : Vector Byte 6) (ssid rates : List Byte) :
    (buildFrame rc ch mac ssid rates).drop 45 =
      0x00#8 :: BitVec.ofNat 8 ssid.length ::
        (ssid ++ 0x01#8 :: BitVec.ofNat 8 rates.length :: (rates ++ 0x03#8 :: 0x01#8 :: ([ch] ++ []))) := by
  have hfixed : ((frameFields rc ch mac ssid rates).take 13).flatten.length = 45 := by
    simp [frameFields]
  rw [buildFrame_eq_flatten, ← List.take_append_drop 13 (frameFields rc ch mac ssid rates),
    List.flatten_append, List.drop_left' hfixed]
  simp [frameFields]

theorem ofNat8_toNat {n : Nat} (h : n ≤ 255) : (BitVec.ofNat 8 n).toNat = n :=
  Nat.mod_eq_of_lt (Nat.lt_succ_of_le h)

/-- Settles O49, element by element. -/
theorem elementsInOrder : Obligations.ElementsInOrder := by
  intro rc ch mac ssid rates hs hr
  rw [buildFrame_drop, parseElements_cons (ofNat8_toNat hs).symm,
    parseElements_cons (ofNat8_toNat hr).symm, parseElements_cons (payload := [ch]) rfl]
  rfl

/-! ## A published frame (R177) -/

/-- Settles O56, by what a step does to the block. -/
theorem publishedFrameStays : Obligations.PublishedFrameStays := by
  intro s t hd hs
  cases step_block hs with
  | still ht | store _ _ _ ht =>
    have hstate : t.state = s.state := by simpa using congrArg State.state ht
    have hlen : t.frameLen = s.frameLen := by simpa using congrArg State.frameLen ht
    have hbuf : t.frameBuf = s.frameBuf := by simpa using congrArg State.frameBuf ht
    exact .inl ⟨hstate.trans hd, hlen, hbuf, by rw [publishedFrame, hlen, hbuf]; rfl⟩
  | error _ _ _ _ _ _ _ _ _ ht | build _ _ _ _ _ _ _ ht | reset _ _ _ _ ht =>
    have hstate := congrArg State.state ht
    exact .inr ⟨fun hdone => by simp [hdone] at hstate, congrArg State.frameLen ht⟩
  | drop _ _ _ _ _ _ hb _ | write _ _ _ hb _ _ _ | publish hb _ _ _ => simp [hd] at hb

end Sys2Proof.Machine
end

section
/-! PROOFS. The frame as a function of the configuration (42_serializer_steps.md R180, R186): the eight
engine steps of a build that nobody interrupts, and the builds under every interleaving. -/

namespace Sys2Proof.Machine

open Sys2Proof.Config

/-! ## An accepted BUILD (R152) -/

/-- The one branch of BUILD that leaves the block BUSY (R152 to R154). -/
theorem execBuild_next_busy {s b : State} (hs : s.state ≠ .busy) (h : exec .build s = .next b)
    (hb : b.state = .busy) :
    (s.params.checkChannel = true → s.channel ≠ 0#8) ∧ (frameLength s).toNat ≤ s.params.bufCap ∧
      b = (acceptBuild s).advance := by
  rw [exec, execBuild, deliver_of_not_busy _ hs, Host.Outcome.next.injEq] at h
  rcases buildCommand_cases s with ⟨-, -, e⟩ | ⟨-, e⟩ | ⟨hch, hcap, e⟩ <;> rw [e] at h
  · simp [← h] at hb
  · simp [← h] at hb
  · exact ⟨hch, hcap, h.symm⟩

/-! ## Eight engine steps (R163, R170 to R177) -/

/-- The bytes of the steps 1 to 7, where the descriptor cells hold `ssid` and `rates` (R111). -/
def stepBytes (s : State) (ssid rates : List Byte) : List (List Byte) :=
  [capHdrBytes, rateBytes s.rateCode, mgmtHdrBytes s.apMac, bodyBytes, eidSsid :: s.ssidLen :: ssid,
    eidRates :: s.ratesLen :: rates, [eidDs, dsLen, s.channel]]

/-- A build runs, nobody but the engine can move, and the descriptor cells hold `ssid` and `rates`. -/
structure BuildsAlone (s : State) (ssid rates : List Byte) : Prop where
  alone : EngineAlone s
  busy : s.state = .busy
  ssidHeld : Holds s.ssid s.ssidLen ssid
  ratesHeld : Holds s.rates s.ratesLen rates

section
variable {s : State} {ssid rates : List Byte}

/-- A step's bytes change none of this. -/
theorem BuildsAlone.write (h : BuildsAlone s ssid rates) (bs : List Byte) (q : StepCode) :
    BuildsAlone ((pushAll bs s).setSeq q) ssid rates := by
  rw [pushAll_frame]
  exact ⟨h.alone, h.busy, h.ssidHeld, h.ratesHeld⟩

theorem BuildsAlone.step_eq (h : BuildsAlone s ssid rates) {i : Instr} (hq : decodeSeq s.seq = .ok i) :
    step s = exec i s :=
  engineStepRunsInstruction s i h.busy hq h.alone.consumer_not_ready (programOk_of_nil h.alone.1)
    (.inl h.alone.1)

theorem stepBytes_write (bs : List Byte) (q : StepCode) :
    stepBytes ((pushAll bs s).setSeq q) ssid rates = stepBytes s ssid rates := by
  rw [pushAll_frame]
  rfl

/-- The bytes of the seven steps are the frame of the configuration (R111). -/
theorem stepBytes_flatten (hs : Holds s.ssid s.ssidLen ssid) (hr : Holds s.rates s.ratesLen rates) :
    (stepBytes s ssid rates).flatten.map some = expectedFrame s := by
  have hchunks : frameChunks s = (stepBytes s ssid rates).map (List.map some) := by
    rw [frameChunks, element_eq_map hs, element_eq_map hr]
    rfl
  rw [expectedFrame_eq_flatten, hchunks, List.map_flatten]

/-- They are as many as LEN says (R131). -/
theorem stepBytes_flatten_length (hs : Holds s.ssid s.ssidLen ssid) (hr : Holds s.rates s.ratesLen rates) :
    (stepBytes s ssid rates).flatten.length = (frameLength s).toNat := by
  rw [← expectedFrame_length, ← stepBytes_flatten hs hr, List.length_map]

theorem writeStep_of_fits {bs : List Byte} {q : StepCode} (h : Fits bs.length s) :
    writeStep bs q s = .next ((pushAll bs s).setSeq q) := by
  rw [writeStep, putBytes_fits h, andThen_next]

theorem tlvStep_of_fits {id n : Byte} {p : Nat → Option Byte} {bs : List Byte} {q : StepCode}
    (hn : bs.length = n.toNat) (hp : ∀ k, k < bs.length → p k = bs[k]?) (h : Fits (bs.length + 2) s) :
    tlvStep id n p q s = .next ((pushAll (id :: n :: bs) s).setSeq q) := by
  rw [tlvStep, emitTLV_fits hn hp h, andThen_next]

/-- The step `k + 1` writes its bytes where they fit, and names the step `k + 2` (R163). -/
theorem BuildsAlone.step_writes (h : BuildsAlone s ssid rates) {k : Nat} {bs : List Byte}
    (hseq : s.seq = BitVec.ofNat 4 (k + 1)) (hbs : (stepBytes s ssid rates)[k]? = some bs)
    (hf : Fits bs.length s) :
    step s = .next ((pushAll bs s).setSeq (BitVec.ofNat 4 (k + 2))) := by
  have hrun {i : Instr} (hi : decodeSeq (BitVec.ofNat 4 (k + 1)) = .ok i) : step s = exec i s :=
    h.step_eq (hseq ▸ hi)
  have hk : k < 7 := (List.getElem?_eq_some_iff.mp hbs).1
  interval_cases k <;> obtain rfl := Option.some.inj hbs
  · exact (hrun (i := .caphdr) rfl).trans (writeStep_of_fits hf)
  · exact (hrun (i := .rate) rfl).trans (writeStep_of_fits hf)
  · exact (hrun (i := .mgmthdr) rfl).trans (writeStep_of_fits hf)
  · exact (hrun (i := .body) rfl).trans (writeStep_of_fits hf)
  · exact (hrun (i := .ieSsid) rfl).trans
      (tlvStep_of_fits h.ssidHeld.length (fun _ => h.ssidHeld.read) hf)
  · exact (hrun (i := .ieRates) rfl).trans
      (tlvStep_of_fits h.ratesHeld.length (fun _ => h.ratesHeld.read) hf)
  · exact (hrun (i := .ieDs) rfl).trans
      (tlvStep_of_fits (bs := [s.channel]) rfl (fun _ => channel_payload) hf)

end

/-- Naming a step and writing bytes do not touch each other. -/
theorem pushAll_setSeq (bs : List Byte) (q : StepCode) (s : State) :
    pushAll bs (s.setSeq q) = (pushAll bs s).setSeq q := by
  induction bs generalizing s with
  | nil => rfl
  | cons b bs ih => exact ih (s.pushByte b)

/-- What fits behind bytes that fit. -/
theorem Fits.after_pushAll {bs : List Byte} {n : Nat} {s : State} (h : Fits (bs.length + n) s)
    (q : StepCode) : Fits n ((pushAll bs s).setSeq q) := by
  have hcur := pushAll_cur bs s (by have := h.small; omega)
  rw [pushAll_frame]
  simp only [Fits, State.setSeq_cur, State.setSeq_len, State.setSeq_params] at h ⊢
  omega

/-- The steps from `k + 1` to 7 write their bytes one after another, and then one more step is taken. -/
theorem BuildsAlone.run_writes {s t : State} {ssid rates : List Byte} {cs : List (List Byte)} {k : Nat}
    (h : BuildsAlone s ssid rates) (hseq : s.seq = BitVec.ofNat 4 (k + 1))
    (hcs : (stepBytes s ssid rates).drop k = cs) (hf : Fits cs.flatten.length s)
    (ht : step ((pushAll cs.flatten s).setSeq (BitVec.ofNat 4 (k + cs.length + 1))) = .next t) :
    core.run (cs.length + 1) s = .next t := by
  induction cs generalizing s k with
  | nil =>
    have hs : s.setSeq (BitVec.ofNat 4 (k + 1)) = s := by rw [← hseq]; rfl
    exact run_succ_eq_next.mpr ⟨t, hs ▸ ht, rfl⟩
  | cons c cs ih =>
    have hc : (stepBytes s ssid rates)[k]? = some c := by rw [← List.head?_drop, hcs]; rfl
    have hrest : (stepBytes s ssid rates).drop (k + 1) = cs := by rw [← List.tail_drop, hcs]; rfl
    have hcount : k + (c :: cs).length + 1 = k + 1 + cs.length + 1 := by rw [List.length_cons]; omega
    rw [List.flatten_cons, List.length_append] at hf
    rw [List.flatten_cons, pushAll_append, hcount] at ht
    have hstep := h.step_writes hseq hc (by simp only [Fits] at hf ⊢; omega)
    refine run_succ_eq_next.mpr ⟨_, hstep, ih (h.write c _) rfl ?_ (hf.after_pushAll _) ?_⟩
    · rw [stepBytes_write, hrest]
    · rw [pushAll_setSeq]
      exact ht

/-- Bytes written from cell 0 on stand in the first cells. -/
theorem cells_pushAll {bs : List Byte} {s : State} (hcur : s.cur = 0#16) (hl : bs.length ≤ 65535) :
    cells (pushAll bs s).frameBuf bs.length = bs.map some := by
  have hzero : s.cur.toNat = 0 := by rw [hcur]; rfl
  refine List.ext_getElem? fun i => ?_
  rw [cells_getElem?, List.getElem?_map, pushAll_read bs s (by omega), hzero]
  split
  case isTrue hi => simp [hi]
  case isFalse hi => simp [List.getElem?_eq_none (not_lt.mp hi)]

/-- From SEQ = 1 seven steps write the frame's bytes, and the eighth finds CUR at LEN and publishes
(R181). -/
theorem BuildsAlone.run_build {s : State} {ssid rates : List Byte} (h : BuildsAlone s ssid rates)
    (hseq : s.seq = 1#4) (hcur : s.cur = 0#16) (hlen : s.len = frameLength s)
    (hcap : s.len.toNat ≤ s.params.bufCap) :
    core.run 8 s = .next (publish ((pushAll (stepBytes s ssid rates).flatten s).setSeq 8#4)) := by
  have hbytes : (stepBytes s ssid rates).flatten.length = s.len.toNat := by
    rw [hlen, stepBytes_flatten_length h.ssidHeld h.ratesHeld]
  have hfit : Fits (stepBytes s ssid rates).flatten.length s := by simp [Fits, hbytes, hcur, hcap]
  have hend : ((pushAll (stepBytes s ssid rates).flatten s).setSeq 8#4).cur =
      ((pushAll (stepBytes s ssid rates).flatten s).setSeq 8#4).len := by
    apply BitVec.eq_of_toNat_eq
    rw [pushAll_frame]
    simp [pushAll_cur _ s hfit.small, hcur, hbytes]
  have hfinish := ((h.write _ 8#4).step_eq (i := .finish) rfl).trans (exec_finish_at_len hend)
  have hseven : (stepBytes s ssid rates).length = 7 := rfl
  have hrun := h.run_writes (k := 0) hseq List.drop_zero hfit (by rw [hseven]; exact hfinish)
  rwa [hseven] at hrun

@[simp] theorem pushAll_err (bs : List Byte) (s : State) : (pushAll bs s).err = s.err := by
  rw [pushAll_frame]

@[simp] theorem pushAll_len (bs : List Byte) (s : State) : (pushAll bs s).len = s.len := by
  rw [pushAll_frame]

theorem sameConfig_publish (s : State) : SameConfig s (publish s) := .refl s

theorem SameConfig.trans {s t u : State} (h : SameConfig s t) (h' : SameConfig t u) : SameConfig s u := by
  obtain ⟨h1, h2, h3, h4, h5, h6, h7⟩ := h
  obtain ⟨h1', h2', h3', h4', h5', h6', h7'⟩ := h'
  exact ⟨h1'.trans h1, h2'.trans h2, h3'.trans h3, h4'.trans h4, h5'.trans h5, h6'.trans h6,
    h7'.trans h7⟩

theorem SameConfig.expectedFrame_eq {s t : State} (h : SameConfig s t) :
    expectedFrame t = expectedFrame s := by
  obtain ⟨h1, h2, h3, h4, h5, h6, h7⟩ := h
  simp only [expectedFrame, h1, h2, h3, h4, h5, h6, h7]

/-- Settles O44: what the eight steps leave, field by field. -/
theorem buildProducesFrame : Obligations.BuildProducesFrame := by
  intro s b ssid rates hs hbuild hb halone hssid hrates
  obtain ⟨-, hcap, hacc⟩ := execBuild_next_busy hs hbuild hb
  have hcfg : SameConfig s b := by rw [hacc]; exact .refl s
  have hcur : b.cur = 0#16 := by rw [hacc]; rfl
  have hlen : b.len = frameLength s := by rw [hacc]; rfl
  have h : BuildsAlone b ssid rates := ⟨halone, hb, by rwa [hacc], by rwa [hacc]⟩
  have hrun := h.run_build (by rw [hacc]; rfl) hcur (by rw [hacc]; rfl) (by rwa [hacc])
  have hbytes := stepBytes_flatten h.ssidHeld h.ratesHeld
  have hcount : (stepBytes b ssid rates).flatten.length = b.len.toNat := by
    rw [stepBytes_flatten_length h.ssidHeld h.ratesHeld, hacc]
    rfl
  generalize (stepBytes b ssid rates).flatten = bs at hrun hbytes hcount
  refine ⟨_, hrun, rfl, ?_, ?_, rfl, ?_, ?_, ?_⟩
  · simp [hacc]
  · simp [hacc]
  · simp [hlen, frameLength_toNat, hssid.length, hrates.length]
  · exact (hcfg.trans (sameConfig_write bs 8#4 b)).trans (sameConfig_publish _)
  · calc publishedFrame (publish ((pushAll bs b).setSeq 8#4))
        = cells (pushAll bs b).frameBuf bs.length := by simp [publishedFrame, hcount]
      _ = bs.map some := cells_pushAll hcur (by have := b.len.isLt; omega)
      _ = expectedFrame s := hbytes.trans hcfg.expectedFrame_eq
      _ = _ := expectedFrame_eq_buildFrame hssid hrates

/-! ## Every interleaving (R180, R186) -/

/-- The step that ends a build at DONE publishes the frame of the configuration. -/
theorem publishedFrame_of_step {s t : State} (h : BfsInv s) (hb : s.state = .busy)
    (hs : step s = .next t) (hd : t.state = .done) : publishedFrame t = expectedFrame s := by
  cases step_block hs with
  | publish _ _ hc ht =>
    have hlen : t.frameLen = s.len := congrArg State.frameLen ht
    have hbuf : t.frameBuf = s.frameBuf := by simpa using congrArg State.frameBuf ht
    rw [publishedFrame, hlen, hbuf]
    exact cells_eq_expectedFrame h.frame hb hc (h.control.busyLen hb).1
  | still ht | drop _ _ _ _ _ _ _ ht | write _ _ _ _ _ _ ht | reset _ _ _ _ ht =>
    have hstate := congrArg State.state ht
    simp [hb, hd] at hstate
  | store _ _ hn _ | error _ _ _ _ _ _ _ hn _ _ | build _ _ _ _ hn _ _ _ => exact absurd hb hn

/-- A running build that is carried through publishes the frame of its configuration, whoever takes the
steps between, and the invariants hold at its end (R180). -/
theorem publishedFrame_of_buildRun {n : Nat} {s t : State} (h : BfsInv s) (hb : s.state = .busy)
    (hrun : BuildRun n s t) : publishedFrame t = expectedFrame s ∧ BfsInv t := by
  obtain ⟨hrun, hd, hbusy⟩ := hrun
  induction n generalizing s with
  | zero =>
    obtain rfl : s = t := Host.Outcome.next.inj hrun
    simp [hb] at hd
  | succ n ih =>
    obtain ⟨u, hu, hrest⟩ := run_succ_eq_next.mp hrun
    have hinv : BfsInv u := stepKeepsInvariant s u h hu
    have hbusy' : ∀ k, k < n → ∃ v : State, core.run k u = .next v ∧ v.state = .busy := by
      intro k hk
      obtain ⟨v, hv, hvb⟩ := hbusy (k + 1) (Nat.succ_lt_succ hk)
      obtain ⟨u', hu', hv⟩ := run_succ_eq_next.mp hv
      obtain rfl : u = u' := Host.Outcome.next.inj (hu.symm.trans hu')
      exact ⟨v, hv, hvb⟩
    cases n with
    | zero =>
      obtain rfl : u = t := Host.Outcome.next.inj hrest
      exact ⟨publishedFrame_of_step h hb hu hd, hinv⟩
    | succ n =>
      obtain ⟨v, hv, hub⟩ := hbusy' 0 n.succ_pos
      obtain rfl : u = v := Host.Outcome.next.inj hv
      obtain ⟨hframe, ht⟩ := ih hinv hub hrest hbusy'
      have hcfg : SameConfig s u := (configFrozenDuringBuild s u hu).2.1 hb (.inl hub)
      exact ⟨hframe.trans hcfg.expectedFrame_eq, ht⟩

/-- Settles O46: each of the two frames is the frame of the one configuration. -/
theorem buildsAreDeterministic : Obligations.BuildsAreDeterministic := by
  intro n n' s s' t t' hb hb' h h' hcfg hrun hrun'
  rw [(publishedFrame_of_buildRun h hb hrun).1, (publishedFrame_of_buildRun h' hb' hrun').1,
    hcfg.expectedFrame_eq]

theorem bfsInv_acceptBuild {s : State} (h : BfsInv s)
    (hch : s.params.checkChannel = true → s.channel ≠ 0#8)
    (hcap : (frameLength s).toNat ≤ s.params.bufCap) : BfsInv (acceptBuild s).advance where
  mem := ⟨h.mem.ssidWf, h.mem.ssidBound, h.mem.ratesWf, h.mem.ratesBound, h.mem.frameWf,
    h.mem.frameBound⟩
  control := ControlInv.of_block (s := acceptBuild s) rfl (controlInv_acceptBuild h.control.legal hch hcap)
  frame := frameInv_of_nothing_written (by simp) (by simp)
  consumer := ⟨h.consumer.copySize⟩

/-- A frame with every byte there has every descriptor cell written (R164). -/
theorem exists_holds_of_expectedFrame {s : State} {bs : List Byte} (h : expectedFrame s = bs.map some) :
    ∃ ssid rates, Holds s.ssid s.ssidLen ssid ∧ Holds s.rates s.ratesLen rates := by
  have hwritten : ∀ v ∈ expectedFrame s, v ≠ none := by
    rw [h]
    simp
  obtain ⟨ssid, hs⟩ := exists_holds (m := s.ssid) (n := s.ssidLen) fun v hv =>
    hwritten v (by simp [expectedFrame, hv])
  obtain ⟨rates, hr⟩ := exists_holds (m := s.rates) (n := s.ratesLen) fun v hv =>
    hwritten v (by simp [expectedFrame, hv])
  exact ⟨ssid, rates, hs, hr⟩

/-- Settles O45: the frame of the configuration at BUILD is published, so each of its bytes is there. -/
theorem frameOfAcceptedBuild : Obligations.FrameOfAcceptedBuild := by
  intro n s b t h hs hbuild hb hrun
  obtain ⟨hch, hcap, rfl⟩ := execBuild_next_busy hs hbuild hb
  obtain ⟨hframe, ht⟩ := publishedFrame_of_buildRun (bfsInv_acceptBuild h hch hcap) hb hrun
  obtain ⟨rc, ch, mac, xs, ys, -, -, -, hbytes⟩ := ht.frame.doneFrame hrun.2.1
  have hexp : publishedFrame t = expectedFrame s := hframe
  obtain ⟨ssid, rates, hssid, hrates⟩ := exists_holds_of_expectedFrame (hexp.symm.trans hbytes)
  exact ⟨ssid, rates, hssid, hrates, hexp.trans (expectedFrame_eq_buildFrame hssid hrates)⟩

end Sys2Proof.Machine
end

section
/-! PROOFS. The statements about the errors and the transmit consumer (60_exceptions.md): the one fault that
can be reached, the ways out of ERROR, and the consumer's steps. -/

namespace Sys2Proof.Machine

/-! ## The faults that can be reached (R205) -/

/-- An outcome that is no fault but `UnwrittenInput`. -/
def FaultsUnwritten (o : Result) : Prop := ∀ r, o = .fault r → r = .unwrittenInput

theorem FaultsUnwritten.of_next {o : Result} (h : ∃ t, o = .next t) : FaultsUnwritten o := by
  obtain ⟨t, rfl⟩ := h
  exact fun _ hr => nomatch hr

theorem FaultsUnwritten.of_wrote {o : Result} {bs : List Byte} {q : StepCode} {s : State}
    (h : ∃ t, o = .next t ∧ WroteBytes bs q s t) : FaultsUnwritten o :=
  .of_next (h.imp fun _ => And.left)

/-- A host transaction or WAIT always answers a next state (R140 to R147). -/
theorem exec_host_next {w : HTWord} {i : Instr} (hw : decodeHT w = .ok i) (s : State) :
    ∃ t, exec i s = .next t := by
  rcases decodeHT_ok hw with ⟨a, d, rfl⟩ | ⟨a, rfl⟩ | rfl | rfl
  · exact ⟨_, rfl⟩
  · exact ⟨_, rfl⟩
  · exact ⟨_, rfl⟩
  · by_cases hb : s.state = .busy
    · exact ⟨_, if_pos hb⟩
    · exact ⟨_, if_neg hb⟩

/-- Every SEQ of a running build names a step (R46, R98). -/
theorem decodeSeq_of_range {q : StepCode} (h1 : 1 ≤ q.toNat) (h8 : q.toNat ≤ 8) :
    ∃ i, decodeSeq q = .ok i := by
  obtain ⟨n, hn, rfl⟩ : ∃ n, n = q.toNat ∧ q = BitVec.ofNat 4 n := ⟨_, rfl, by simp⟩
  rw [← hn] at h1 h8
  interval_cases n <;> exact ⟨_, rfl⟩

/-- In a running build the bytes of the step SEQ names fit below LEN and in FRAME_BUF (R181). -/
theorem ControlInv.fits_chunk {s : State} (h : ControlInv s) (hb : s.state = .busy) {k : Nat}
    {l : List (Option Byte)} (hs : s.seq = BitVec.ofNat 4 (k + 1)) (hl : (frameChunks s)[k]? = some l) :
    Fits l.length s := by
  obtain ⟨hlen, hcap, hcur⟩ := h.busyLen hb
  obtain ⟨hk, rfl⟩ := List.getElem?_eq_some_iff.mp hl
  have hk7 : k < 7 := hk
  have hq : s.seq.toNat = k + 1 := by rw [hs, BitVec.toNat_ofNat]; omega
  have hall : (frameLength s).toNat = (frameChunks s).flatten.length := by
    rw [← expectedFrame_length, expectedFrame_eq_flatten]
  have hstart := startOffset_toNat s hq hk7.le
  rw [← List.take_append_drop k (frameChunks s), List.drop_eq_getElem_cons hk] at hall
  simp only [List.flatten_append, List.flatten_cons, List.length_append] at hall
  rw [← hcur] at hstart
  rw [hlen] at hcap
  simp only [Fits, hlen]
  omega

/-- A step that writes an element which fits stops at an unwritten cell alone (R164). -/
theorem tlvStep_cells_faults {id n : Byte} {m : Memory} {q : StepCode} {s : State}
    (h : Fits (n.toNat + 2) s) : FaultsUnwritten (tlvStep id n (cfgByte m) q s) := by
  rw [Nat.add_comm] at h
  obtain ⟨hwritten, hunwritten⟩ := tlvStep_cells (id := id) (m := m) (q := q) h
  by_cases hn : ∃ i, i < n.toNat ∧ Memory.read m i = none
  · obtain ⟨i, hi, hi'⟩ := hn
    rw [hunwritten i hi hi']
    exact fun _ hr => (Host.Outcome.fault.inj hr).symm
  · obtain ⟨bs, hbs⟩ := exists_holds (m := m) (n := n) fun v hv hv' => hn <| by
      simpa [cells, hv'] using hv
    exact .of_wrote (hwritten bs hbs)

/-- The step SEQ names in a running build stops at an unwritten cell alone: its bytes fit, and FINISH
finds CUR at LEN (R181). -/
theorem ControlInv.exec_faults {s : State} (h : ControlInv s) (hb : s.state = .busy) {i : Instr}
    (hq : decodeSeq s.seq = .ok i) : FaultsUnwritten (exec i s) := by
  rcases decodeSeq_ok hq with ⟨hs, rfl⟩ | ⟨hs, rfl⟩ | ⟨hs, rfl⟩ | ⟨hs, rfl⟩ | ⟨hs, rfl⟩ | ⟨hs, rfl⟩ |
    ⟨hs, rfl⟩ | ⟨hs, rfl⟩
  · exact .of_wrote (caphdrWrites s (h.fits_chunk hb (k := 0) hs rfl))
  · exact .of_wrote (rateWrites s (h.fits_chunk hb (k := 1) hs rfl))
  · have hf := h.fits_chunk hb (k := 2) hs rfl
    exact .of_wrote (mgmthdrWrites s (by simpa [mgmtHdrBytes, le16, rep] using hf))
  · exact .of_wrote (bodyWrites s (h.fits_chunk hb (k := 3) hs rfl))
  · exact tlvStep_cells_faults (by simpa using h.fits_chunk hb (k := 4) hs rfl)
  · exact tlvStep_cells_faults (by simpa using h.fits_chunk hb (k := 5) hs rfl)
  · exact .of_wrote (ieDsWrites s (h.fits_chunk hb (k := 6) hs rfl))
  · obtain ⟨hlen, -, hcur⟩ := h.busyLen hb
    have hend : s.cur = s.len := by rw [hcur, hlen, hs]; rfl
    exact .of_next ⟨_, exec_finish_at_len hend⟩

/-- A consumer that copies no more than the invariant allows stays below address 0xFFF (R61, R228). -/
theorem ConsumerInv.consumerStep_eq_next {s : State} (h : ConsumerInv s) : ∃ t, consumerStep s = .next t := by
  rw [consumerStep]
  cases hp : s.consumer.phase with
  | off | readLo | readHi | sending | failed => exact ⟨_, rfl⟩
  | waiting => dsimp only; split <;> exact ⟨_, rfl⟩
  | copying size got =>
    have hsize := h.copySize size got hp
    dsimp only [copyByte]
    split
    · rw [if_pos (by unfold frameBase; omega)]
      exact ⟨_, rfl⟩
    · exact ⟨_, rfl⟩

theorem Scheduled.block_eq {s u : State} (h : Scheduled s u) : u.block = s.block := by
  rw [h]; rfl

/-- Settles O53, by who moves: the host's items never fault, SEQ names a step whose bytes fit, and the
consumer's copy stays in the register space. -/
theorem onlyUnwrittenInputReachable : Obligations.OnlyUnwrittenInputReachable := by
  intro s r hinv hr
  have hctl := hinv.control
  suffices hfaults : FaultsUnwritten (step s) from hfaults r hr
  cases step_cases s with
  | host u w rest i _ _ hw _ ho => exact ho ▸ .of_next (exec_host_next hw u)
  | frameBytes u _ _ _ ho =>
    rw [ho]
    rcases expandFrameBytes_cases u with e | ⟨items, e⟩
    · exact fun _ hr => nomatch e.symm.trans hr
    · exact .of_next ⟨_, e⟩
  | engine u i hu hb hq ho =>
    have hseq : u.seq = s.seq := by rw [hu]
    have hstate : u.state = s.state := by rw [hu]
    exact ho ▸ (hctl.of_block hu.block_eq).exec_faults (hstate.trans hb) (hseq ▸ hq)
  | badSeq hb hq _ =>
    obtain ⟨h1, h8⟩ := hctl.busySeq.mp hb
    obtain ⟨i, hi⟩ := decodeSeq_of_range h1 h8
    exact absurd hi (hq i)
  | consumer u hu ho =>
    have hcons : u.consumer = s.consumer := by rw [hu]
    have hu' : ConsumerInv u := ⟨hcons ▸ hinv.consumer.copySize⟩
    exact ho ▸ .of_next hu'.consumerStep_eq_next
  | idle ho => exact .of_next ⟨s, ho⟩
  | malformed ho => exact fun _ hr => nomatch ho.symm.trans hr

/-! ## The ways out of ERROR (R210) -/

@[simp] theorem State.block_err (s : State) : s.block.err = s.err := rfl

@[simp] theorem store_err (a : Addr) (d : Byte) (s : State) : (s.store a d).err = s.err := by
  rw [store_frame]

/-- Settles O34, by what a step does to the block. -/
theorem errorLeftInTwoWays : Obligations.ErrorLeftInTwoWays := by
  intro s t he hs
  cases step_block hs with
  | still ht | store _ _ _ ht =>
    have hstate : t.state = s.state := by simpa using congrArg State.state ht
    have herr : t.err = s.err := by simpa using congrArg State.err ht
    exact .inl ⟨hstate.trans he, herr⟩
  | error w rest c d hp hw hd _ _ ht =>
    exact .inr ⟨w, rest, hp, .inl ⟨congrArg State.state ht, d, hd, hw⟩⟩
  | build w rest hp hw _ _ _ ht =>
    exact .inr ⟨w, rest, hp, .inr (.inl ⟨hw, congrArg State.state ht, congrArg State.err ht⟩)⟩
  | reset w rest hp hw ht =>
    exact .inr ⟨w, rest, hp, .inr (.inr ⟨hw, congrArg State.state ht, congrArg State.err ht⟩)⟩
  | drop _ _ _ _ _ _ hb _ | write _ _ _ hb _ _ _ | publish hb _ _ _ => simp [he] at hb

/-! ## The transmit loop (R229 to R233) -/

/-- A consumer that holds F calls `write` (R229). -/
theorem consumerStep_sending {s : State} {f : List Byte} (hp : s.consumer.phase = .sending f) :
    consumerStep s = .next (sendFrame f s) := by
  rw [consumerStep, hp]

/-- A failed consumer has no step of its own (R231). -/
theorem consumerStep_failed {s : State} {f : List Byte} {n : Int} {text : List Char}
    (hp : s.consumer.phase = .failed f n text) : consumerStep s = .next s := by
  rw [consumerStep, hp]

/-- Whether a call of `write` returns is the port's alone (R232, R233). -/
theorem consumerReady_sending {s : State} {f : List Byte} (hp : s.consumer.phase = .sending f) :
    consumerReady s = s.consumer.writeReturns := by
  rw [consumerReady, hp]

/-- A call that the port answers: it is recorded, and its count says where the loop stands (R230, R231). -/
theorem sendFrame_answered {s : State} {f : List Byte} {a : WriteAnswer} {later : List WriteAnswer}
    (hport : s.consumer.port = a :: later) :
    sendFrame f s = { s with consumer :=
      { phase := afterWrite f a, port := later, rest := s.consumer.rest
        sent := s.consumer.sent ++ [f] } } := by
  simp [sendFrame, hport]

/-- Settles O59: each answer of the port by its count, then the port's rest, and the consumer that has
failed. -/
theorem consumerSends : Obligations.ConsumerSends := by
  refine ⟨fun s f later text hp => ⟨fun hport => ?_, fun n hn hport => ?_, fun hport hrest => ?_,
    fun hport hrest => ?_⟩, fun s t f n text hp => ⟨?_, fun hs => ?_⟩⟩
  · rw [consumerStep_sending hp, sendFrame_answered hport, afterWrite, if_pos rfl]
  · rw [consumerStep_sending hp, sendFrame_answered hport, afterWrite, if_neg hn]
  · constructor
    · simp [consumerReady_sending hp, Consumer.writeReturns, hrest]
    · simp [consumerStep_sending hp, sendFrame, hport, hrest, hp]
  · simp [consumerReady_sending hp, Consumer.writeReturns, hport, hrest]
  · rw [consumerReady, hp]
  · rcases step_consumer hs with he | ⟨u, hu, hut⟩
    · exact he
    · have hcons : u.consumer = s.consumer := by rw [hu]
      rw [consumerStep_failed (hcons ▸ hp), Host.Outcome.next.injEq] at hut
      rw [← hut, hcons]

/-! ## The consumer moves (R73, R228) -/

/-- A host with an item left is held by a running build alone (R147). -/
theorem hostReady_of_not_busy {s : State} (hp : s.program ≠ []) (hb : s.state ≠ .busy) :
    hostReady s = true := by
  cases h : s.program with
  | nil => exact absurd h hp
  | cons item rest => cases item <;> simp [hostReady, h, State.busyOut, hb]

theorem chooseAgent_of_consumer_alone {s : State} (hh : hostReady s = false) (hb : s.state ≠ .busy)
    (hc : consumerReady s = true) : chooseAgent s = some (.consumer, s) := by
  simp [chooseAgent, readyAgents_eq, hh, engineReady_iff, hb, hc]

/-- At a choice a preferred consumer that has a step moves (R74). -/
theorem chooseAgent_of_consumer_preferred {s : State} (hc : consumerReady s = true)
    (hother : hostReady s = true ∨ engineReady s = true) (hp : (preferred s).1 = .consumer) :
    chooseAgent s = some (preferred s) := by
  have hr : ready s (preferred s).1 = true := by rw [hp]; exact hc
  rcases hother with hh | he
  · cases he : engineReady s <;> simp [chooseAgent, readyAgents_eq, hh, he, hc, hr]
  · cases hh : hostReady s <;> simp [chooseAgent, readyAgents_eq, hh, he, hc, hr]

theorem step_of_consumer {s u : State} (hok : programOk s.program = true)
    (hc : chooseAgent s = some (.consumer, u)) : step s = consumerStep u := by
  simp [step, fetch, hok, hc]

/-! ## The consumer reads the frame (R72, R228) -/

/-- FRAME_LEN_LO is read as the low byte of FRAME_LEN (R140). -/
theorem busRead_frameLenLo (s : State) : busRead 0x002#12 s = (lo8 s.frameLen, s) := by
  simp [busRead]

/-- A byte of the copy, while DONE, is the published cell's (R72, R140). -/
theorem busRead_published {s : State} {i : Nat} {v : Byte} (hd : s.state = .done)
    (hi : i < s.frameLen.toNat) (hcap : s.frameLen.toNat ≤ s.params.bufCap)
    (hmax : s.params.bufCap ≤ 3072) (hv : Memory.read s.frameBuf i = some v) :
    busRead (BitVec.ofNat 12 (frameBase + i)) s = (v, s) := by
  rw [busRead_frameBuf (by omega) (by omega), publishedByte_of_done hd hi, hv, orDraw]

theorem consumerStep_copying_eq {s : State} {size : Nat} {got : List Byte}
    (hp : s.consumer.phase = .copying size got) : consumerStep s = copyByte size got s := by
  rw [consumerStep, hp]

/-- Settles O60: who moves, and the consumer's phases up to the copy's last byte. -/
theorem consumerReadsFrame : Obligations.ConsumerReadsFrame := by
  refine ⟨fun s hok hc => ⟨fun hp hb => ?_, fun later hs hother => ?_⟩, fun _ _ => consumerStep_next,
    fun s hp => ⟨?_, fun hd => ?_⟩, fun s hp => ⟨lo8 s.frameLen, ?_, fun t ht hlen => ?_⟩,
    fun s got v hd hcap hmax hp => ⟨fun hlt hv => ?_, fun heq => ?_⟩⟩
  · exact step_of_consumer hok (chooseAgent_of_consumer_alone (by rw [hostReady, hp]) hb hc)
  · have hpref := preferred_of_cons hs
    have hready : hostReady s = true ∨ engineReady s = true := by
      by_cases hb : s.state = .busy
      · exact .inr ((engineReady_iff s).mpr hb)
      · exact .inl (hostReady_of_not_busy (hother.resolve_left hb) hb)
    exact step_of_consumer hok
      (hpref ▸ chooseAgent_of_consumer_preferred hc hready (congrArg Prod.fst hpref))
  · simp [consumerReady, hp, State.doneOut]
  · simp [consumerStep, hp, hd, State.setPhase]
  · simp [consumerStep, hp, busRead_frameLenLo, State.setPhase]
  · simp [consumerStep, ht, busRead_frameLenHi, hlen, hi8_lo8, State.setPhase]
  · rw [consumerStep_copying_eq hp, copyByte, if_pos hlt, if_pos (by unfold frameBase; omega),
      busRead_published hd hlt hcap hmax hv]
    rfl
  · rw [consumerStep_copying_eq hp, copyByte, if_neg (by omega)]
    rfl

end Sys2Proof.Machine
end

section
/-! PROOFS. The statement about the hazard of commands during a build (70_reset_and_hazards.md). -/

namespace Sys2Proof.Machine

/-! ## Commands while BUSY (R145, R252) -/

/-- Whatever effect a write would have had, while BUSY it sets DROP and the host goes on. -/
theorem deliver_advance_of_busy (effect : State → State) {s : State} (hb : s.state = .busy) :
    (deliver effect s).advance = { s with drop := true, program := s.program.tail } := by
  rw [deliver_of_busy effect hb]
  rfl

/-- Settles O33: the three rows deliver different effects, and while BUSY none of them is applied. -/
theorem commandsDroppedWhileBusy : Obligations.CommandsDroppedWhileBusy := by
  intro c s hb
  refine ⟨?_, ?_, ?_⟩
  · rw [exec, execNop, deliver_advance_of_busy _ hb]
  · rw [exec, execBuild, deliver_advance_of_busy _ hb]
  · rw [exec, execReservedCmd, deliver_advance_of_busy _ hb]

end Sys2Proof.Machine
end
